-- ==== Sys2Proof/Word.lean ====
section
/-! DEFINITION. The word types of the block (spec 00_scope.md R11, 20_memory.md R51). -/

namespace Sys2Proof

/-- A byte: 8 bits, unsigned (R11). -/
abbrev Byte := BitVec 8

/-- A `u16`: the CRC register and the two 16-bit fields of the frame (R11, R52). -/
abbrev U16 := BitVec 16

/-- A 32-bit command-interface register (10_state.md R36). -/
abbrev U32 := BitVec 32

/-- A sample: a signed 16-bit two's-complement integer (R11, R51). -/
abbrev Sample := BitVec 16

/-- One element of a bit sequence: `true` is 1 (R11, R53). -/
abbrev Bit := Bool

end Sys2Proof
end

