-- ==== Sys2Proof/Syntax.lean ====
section
/-! DEFINITION. The operations of the block, one constructor per row of spec/opcode_table.json. A
command word holds no operand: operands stand in `OPA`, `OPB`, `OPC` and the buffers
(spec 30_encoding.md R84, R85). -/

namespace Sys2Proof

/-- The nineteen operations (R85). -/
inductive Instr where
  /-- 0x10, R101 -/
  | crcInit
  /-- 0x11, R102 -/
  | crcByte
  /-- 0x12, R104 -/
  | crcRead
  /-- 0x13, R106 -/
  | crcBlock
  /-- 0x20, R123 -/
  | frameEncode
  /-- 0x21, R124 -/
  | frameDecode
  /-- 0x30, R142 -/
  | modReset
  /-- 0x31, R143 -/
  | tone
  /-- 0x32, R145 -/
  | modBits
  /-- 0x33, R148 -/
  | buildFrame
  /-- 0x34, R149 -/
  | encodeMessage
  /-- 0x35, R150 -/
  | transmit
  /-- 0x40, R174 -/
  | goertzelPower
  /-- 0x41, R175 -/
  | toneDetect
  /-- 0x50, R195 -/
  | symEnergy
  /-- 0x51, R196 -/
  | offsetSearch
  /-- 0x52, R197 -/
  | bitExtract
  /-- 0x53, R198 -/
  | demodulate
  /-- 0x60, R221 -/
  | receive
deriving DecidableEq, Repr

/-- The three operand shapes of R84. -/
inductive Shape where
  /-- no scalar operand -/
  | z
  /-- `OPA` -/
  | a
  /-- `OPA`, `OPB`, `OPC` -/
  | abc
deriving DecidableEq, Repr

/-- The operand shape of each operation (R85). -/
def Instr.shape : Instr → Shape
  | .crcInit => .z
  | .crcByte => .a
  | .crcRead => .z
  | .crcBlock => .z
  | .frameEncode => .z
  | .frameDecode => .z
  | .modReset => .z
  | .tone => .abc
  | .modBits => .z
  | .buildFrame => .z
  | .encodeMessage => .z
  | .transmit => .z
  | .goertzelPower => .abc
  | .toneDetect => .abc
  | .symEnergy => .a
  | .offsetSearch => .z
  | .bitExtract => .a
  | .demodulate => .z
  | .receive => .z

end Sys2Proof
end

