-- ==== Sys2Proof/WellFormed.lean ====
section
/-! DEFINITION. Well-formedness. An operation has no field, so every `Instr` is well formed; what can
be ill formed is a command word (spec 30_encoding.md R84, R86). -/

namespace Sys2Proof

/-- An operation has no operand field that could be out of range (R84). -/
def Instr.wellFormed (_ : Instr) : Bool := true

/-- How many functions each unit has: the last row of R85 for the unit, plus one; 0 for a unit that
does not exist (R86). -/
def unitFunctions (unit : Nat) : Nat :=
  [0, 4, 2, 6, 2, 4, 1].getD unit 0

/-- The unit field of a command word exists (R86). -/
def commandUnitOk (code : Byte) : Bool :=
  decide (1 ≤ code.toNat / 16) && decide (code.toNat / 16 ≤ 6)

/-- The function field of a command word names a row of its unit (R86). -/
def commandFnOk (code : Byte) : Bool :=
  decide (code.toNat % 16 < unitFunctions (code.toNat / 16))

/-- A command word is well formed when it is not reserved (R86). -/
def commandWellFormed (code : Byte) : Bool :=
  commandUnitOk code && commandFnOk code

end Sys2Proof
end

