-- ==== Sys2Proof/Decode.lean ====
section
/-! DEFINITION. The decoder of command words, total on all 256 codes, and the encoder
(spec 30_encoding.md R84 to R87). -/

namespace Sys2Proof

/-- Why a command word is refused (R86): it names no operation. -/
inductive DecodeError where
  | reservedCode (code : Byte)
deriving DecidableEq, Repr

/-- Bits 7:4 of a command word (R84). -/
def commandUnit (code : Byte) : Nat := (code >>> 4).toNat

/-- Bits 3:0 of a command word (R84). -/
def commandFn (code : Byte) : Nat := (code &&& 0x0F#8).toNat

/-- Unit 1, the CRC generator. -/
def decodeCrc : Nat → Option Instr
  | 0 => some .crcInit
  | 1 => some .crcByte
  | 2 => some .crcRead
  | 3 => some .crcBlock
  | _ => none

/-- Unit 2, the frame codec. -/
def decodeFrame : Nat → Option Instr
  | 0 => some .frameEncode
  | 1 => some .frameDecode
  | _ => none

/-- Unit 3, the modulator. -/
def decodeModulator : Nat → Option Instr
  | 0 => some .modReset
  | 1 => some .tone
  | 2 => some .modBits
  | 3 => some .buildFrame
  | 4 => some .encodeMessage
  | 5 => some .transmit
  | _ => none

/-- Unit 4, the Goertzel detector. -/
def decodeGoertzel : Nat → Option Instr
  | 0 => some .goertzelPower
  | 1 => some .toneDetect
  | _ => none

/-- Unit 5, the demodulator. -/
def decodeDemodulator : Nat → Option Instr
  | 0 => some .symEnergy
  | 1 => some .offsetSearch
  | 2 => some .bitExtract
  | 3 => some .demodulate
  | _ => none

/-- Unit 6, the receive machine. -/
def decodeReceiver : Nat → Option Instr
  | 0 => some .receive
  | _ => none

/-- The operation a unit and a function name (R84, R85). -/
def decodeFields (unit fn : Nat) : Option Instr :=
  match unit with
  | 1 => decodeCrc fn
  | 2 => decodeFrame fn
  | 3 => decodeModulator fn
  | 4 => decodeGoertzel fn
  | 5 => decodeDemodulator fn
  | 6 => decodeReceiver fn
  | _ => none

/-- The decoder (R86): total, and every reserved code is refused by name. -/
def decode (code : Byte) : Except DecodeError Instr :=
  match decodeFields (commandUnit code) (commandFn code) with
  | some i => .ok i
  | none => .error (.reservedCode code)

/-- The command code of each operation, from the column `code` of R85. -/
def encode : Instr → Byte
  | .crcInit => 0x10#8
  | .crcByte => 0x11#8
  | .crcRead => 0x12#8
  | .crcBlock => 0x13#8
  | .frameEncode => 0x20#8
  | .frameDecode => 0x21#8
  | .modReset => 0x30#8
  | .tone => 0x31#8
  | .modBits => 0x32#8
  | .buildFrame => 0x33#8
  | .encodeMessage => 0x34#8
  | .transmit => 0x35#8
  | .goertzelPower => 0x40#8
  | .toneDetect => 0x41#8
  | .symEnergy => 0x50#8
  | .offsetSearch => 0x51#8
  | .bitExtract => 0x52#8
  | .demodulate => 0x53#8
  | .receive => 0x60#8

/-- The one command word of an instruction numbered as the opcode table numbers it: the `nbits` low
bits of `w`, zero above (R87: every command is one 8-bit word). -/
def tableWord (nbits w : Nat) : Byte := BitVec.ofNat 8 (w % 2 ^ nbits)

/-- What the decoder reads from an instruction whose bits are `w`. -/
def decodeTableWord (nbits w : Nat) : Option Instr :=
  match decode (tableWord nbits w) with
  | .ok i => some i
  | .error _ => none

end Sys2Proof
end

