-- ==== Sys2Proof/Config.lean ====
section
/-! DEFINITION. The fixed protocol constants, the numeric structure `NUM` left uninterpreted, the
open parameters, and the free values of the environment (spec 00_scope.md R6 to R9, R13). -/

namespace Sys2Proof

/-! ## Protocol constants (R6, R7) -/

namespace Config

/-- Sample rate in hertz, `FS` (R6). -/
abbrev sampleRate : Nat := 44100
/-- Bit-0 frequency in hertz, `F0` (R6). -/
abbrev freqZero : Nat := 2000
/-- Bit-1 frequency in hertz, `F1` (R6). -/
abbrev freqOne : Nat := 3000
/-- Start-preamble frequency in hertz, `F_START` (R6). -/
abbrev freqStart : Nat := 4000
/-- End-preamble frequency in hertz, `F_END` (R6). -/
abbrev freqEnd : Nat := 5000
/-- Symbol duration in milliseconds, `SYM_MS` (R6). -/
abbrev symbolMs : Nat := 40
/-- Start-preamble duration in milliseconds, `PRE_MS` (R6). -/
abbrev preambleMs : Nat := 250
/-- End-preamble duration in milliseconds, `END_MS` (R6). -/
abbrev endMs : Nat := 100
/-- Silence between preamble and data in milliseconds, `SIL_MS` (R6). -/
abbrev silenceMs : Nat := 50
/-- Peak amplitude factor, `AMP` (R6). -/
abbrev amplitude : Int := 2
/-- Scale and upper clamp of the quantiser, `PCM_SCALE` and `PCM_MAX` (R6). -/
abbrev pcmMax : Int := 32767
/-- Generator polynomial, `CRC_POLY` (R6). -/
abbrev crcPoly : U16 := 0x1021#16
/-- Initial CRC register, `CRC_INIT` (R6). -/
abbrev crcInit : U16 := 0xFFFF#16
/-- Longest receivable message in bytes, `MAX_LEN` (R6). -/
abbrev maxLen : Nat := 8192
/-- Fewest bits a frame can have, `MIN_FRAME_BITS` (R6). -/
abbrev minFrameBits : Nat := 32
/-- Stride of the offset search in samples, `SEARCH_STEP` (R6). -/
abbrev searchStep : Nat := 4
/-- Receive timeout after reset in seconds, `DEFAULT_TIMEOUT_S` (R6). -/
abbrev defaultTimeoutS : U32 := 30#32
/-- Samples of one symbol, `SYM_SAMPLES` (R7). -/
abbrev symbolSamples : Nat := 1764
/-- Samples of one start detection window, `W_START` (R7). -/
abbrev startWindow : Nat := 5512
/-- Samples of one end detection window, `W_END` (R7). -/
abbrev endWindow : Nat := 2205
/-- Default of `START_SKIP_SAMPLES`: the rest of the preamble, 11025 − 5512 samples, and the silence, 2205
samples (R8, 92_eei_decisions.md D9). -/
abbrev defaultStartSkip : Nat := 7718
/-- Default of `REC_CAPACITY`: ∞ (R8, 92_eei_decisions.md D21). -/
abbrev defaultRecCapacity : Option Nat := none

end Config

/-! ## The numeric structure `NUM` (R9) -/

/-- One value of `NUM`. It is named by a rational that says where it stands in the order of `>`,
integers below 2^31 in magnitude by themselves. DESIGN CHOICE (log 1): a countable carrier; every
set of reals closed under countably many operations, and binary64, can be named so. -/
structure NumVal where
  /-- The value's place on the number line. -/
  place : Rat
deriving DecidableEq, Repr, Inhabited

/-- The operations of `NUM` that the spec leaves open (R9, D4), as an implementation supplies them.
The laws of 46_numerics.md R254 are built over them in Machine/Numerics.lean. -/
structure NumOps where
  /-- `num` on integers of magnitude 2^31 or more. -/
  wide : Int → NumVal
  /-- `+` -/
  add  : NumVal → NumVal → NumVal
  /-- `−` -/
  sub  : NumVal → NumVal → NumVal
  /-- `×` -/
  mul  : NumVal → NumVal → NumVal
  /-- `÷` -/
  div  : NumVal → NumVal → NumVal
  /-- `sin` -/
  sin  : NumVal → NumVal
  /-- `cos` -/
  cos  : NumVal → NumVal
  /-- `sqrt` -/
  sqrt : NumVal → NumVal
  /-- `PI` -/
  pi   : NumVal
deriving Inhabited

/-- The open parameters of R8, one field each, with the two defaults the spec gives. -/
structure Params where
  /-- `NUM`. -/
  num         : NumOps
  /-- `POWER_THRESHOLD` as supplied; the value used is positive (Machine/Goertzel.lean). -/
  threshold   : NumVal
  /-- `START_SKIP_SAMPLES`. -/
  startSkip   : Nat := Config.defaultStartSkip
  /-- `TX_SLACK_MS`. -/
  txSlackMs   : Nat
  /-- `REC_CAPACITY`; `none` is ∞. -/
  recCapacity : Option Nat := Config.defaultRecCapacity
deriving Inhabited

/-- What one `CapRead` answers (R13): an error, or how many samples the device is ready to give. -/
inductive ReadAnswer where
  | error
  | ready (k : Nat)
deriving DecidableEq, Repr, Inhabited

/-! ## The implementation's parameters and the free values. None that is opaque has a body: nothing can be
proved about which value it is (log 1, log 3, log 4, log 7, log 8, log 23). -/

namespace Config

/-- The parameters of the reference model: the defaults of R8 for `START_SKIP_SAMPLES` and `REC_CAPACITY`,
and a choice of the three that have none. -/
def reference (num : NumOps) (threshold : NumVal) (txSlackMs : Nat) : Params where
  num := num
  threshold := threshold
  txSlackMs := txSlackMs

/-- The block's open parameters (R8). Any choice of them, `reference` among the choices (log 3). -/
opaque params : Params
/-- The clock's answer to a `Now` that State lists no answer for (R13, U6). -/
opaque freeTime : Nat → Rat
/-- The device's answer to a `CapOpen` that State lists no answer for; `true` is ok (R13, U8). -/
opaque freeOpen : Nat → Bool
/-- The device's answer to a `CapRead` that State lists no answer for (R13, U5, U8). -/
opaque freeRead : Nat → ReadAnswer
/-- The device's answer to a `PlayWrite` that State lists no answer for; `true` is ok (R13, U8). -/
opaque freePlay : Nat → Bool
/-- The sample at a position of the capture stream that State lists no sample for (R13, U5). -/
opaque freeSample : Nat → Sample
/-- A byte of `MSG` that a host write of `MSG_LEN` brought into being. -/
opaque freeByte : Nat → Byte
/-- A bit of `BITS` that a host write of `BITS_LEN` brought into being. -/
opaque freeBit : Nat → Bit
/-- A sample of `REC` that a host write of `REC_LEN` brought into being. -/
opaque freeRecSample : Nat → Sample
/-- What `REC` holds after a host write that a finite `REC_CAPACITY` cannot hold, before it is cut to the
capacity: of the draw, of what `REC` held and of what was written (log 23). -/
opaque freeRecWrite : Nat → List Sample → List Sample → List Sample
/-- What a 32-bit register reads that should show a count of 2^32 or more (U21). -/
opaque freeCount : Nat → U32

end Config

end Sys2Proof
end

