-- ==== Sys2Proof/Machine/Numerics.lean ====
section
/-! DEFINITION. `NUM`: the operations with the laws of spec 46_numerics.md R254 built in, the angle
of a tone, and the reference tables (R9, R143, R190, R254, R256). -/

namespace Sys2Proof

namespace NumVal

/-- `num(0)`. -/
def zero : NumVal := ⟨0⟩

/-- `a > b`: a strict order, in which integers stand as integers do (R254). -/
def gt (a b : NumVal) : Bool := decide (b.place < a.place)

/-- `trunc`: toward zero (R9, R254). -/
def trunc (a : NumVal) : Int := a.place.num.tdiv a.place.den

end NumVal

namespace NumOps

/-- `num(z)`: exact below 2^31 in magnitude (R9, R254). -/
def num (K : NumOps) (z : Int) : NumVal :=
  if z.natAbs < 2 ^ 31 then ⟨z⟩ else K.wide z

/-- `+`, with `num(0)` as identity (R254). -/
def plus (K : NumOps) (a b : NumVal) : NumVal :=
  if a = .zero then b else if b = .zero then a else K.add a b

/-- `−`. DEDUCED (log 2): `x − num(0) = x`, which the all-zero window of R174 needs. -/
def minus (K : NumOps) (a b : NumVal) : NumVal :=
  if b = .zero then a else K.sub a b

/-- `×`: `x × num(0) = num(0)` (R254). DEDUCED (log 2): `num(0) × x = num(0)`, from `Quantise(num(0)) = 0` (R146). -/
def times (K : NumOps) (a b : NumVal) : NumVal :=
  if a = .zero ∨ b = .zero then .zero else K.mul a b

/-- `÷`. DEDUCED (log 2): `num(0) ÷ x = num(0)` for `x` not zero, from `Normalise(0) = 0` (R191) and
the exact first sample of R257. -/
def quot (K : NumOps) (a b : NumVal) : NumVal :=
  if a = .zero ∧ b ≠ .zero then .zero else K.div a b

/-- `sin`, with `sin(num(0)) = num(0)` (R254). -/
def sine (K : NumOps) (a : NumVal) : NumVal :=
  if a = .zero then .zero else K.sin a

/-- `cos`. -/
def cosine (K : NumOps) (a : NumVal) : NumVal := K.cos a

/-- `sqrt`. DEDUCED (log 2): `sqrt(num(0)) = num(0)`, from the all-zero window of R195. -/
def root (K : NumOps) (a : NumVal) : NumVal :=
  if a = .zero then .zero else K.sqrt a

/-- `TWO_PI = num(2) × PI` (42_fsk_modulator.md, R171, R190). -/
def twoPi (K : NumOps) : NumVal := K.times (K.num 2) K.pi

/-- `((TWO_PI × num(f)) × num(i)) ÷ num(44100)`: the angle a tone of `f` hertz has gone through after
`i` samples (R143, R190). -/
def angle (K : NumOps) (f i : Nat) : NumVal :=
  K.quot (K.times (K.times K.twoPi (K.num f)) (K.num i)) (K.num Config.sampleRate)

end NumOps

/-- The four read-only reference tables (10_state.md R25). -/
structure RefTables where
  sin0 : List NumVal
  cos0 : List NumVal
  sin1 : List NumVal
  cos1 : List NumVal
deriving DecidableEq, Repr

/-- The contents of the reference tables (R190). -/
def refTables (K : NumOps) : RefTables where
  sin0 := (List.range Config.symbolSamples).map fun i => K.sine (K.angle Config.freqZero i)
  cos0 := (List.range Config.symbolSamples).map fun i => K.cosine (K.angle Config.freqZero i)
  sin1 := (List.range Config.symbolSamples).map fun i => K.sine (K.angle Config.freqOne i)
  cos1 := (List.range Config.symbolSamples).map fun i => K.cosine (K.angle Config.freqOne i)

end Sys2Proof
end

