-- ==== Sys2Proof/Machine/State.lean ====
section
/-! DEFINITION. The state of the block, all of it (spec 10_state.md R20), with the host's and the
environment's coming inputs as plain data, and the state after reset (R44). -/

namespace Sys2Proof.Machine

/-- The seven states of the receive machine (R27). Code 7 is never taken and is not representable (log 12). -/
inductive RxState where
  | idle
  | awaitStart
  | recording
  | demodulating
  | validating
  | success
  | failed
deriving DecidableEq, Repr

/-- The error outcomes (60_exceptions.md R260); `none` is "ended without error". -/
inductive ErrCode where
  | none
  | timeout
  | insufficientBits
  | invalidLength
  | crcMismatch
  | deviceError
  | illegalCommand
  | operandRange
deriving DecidableEq, Repr

/-- The operations that extend over more than one step (20_memory.md R56). -/
inductive Running where
  /-- a `RECEIVE` between its entry and its end -/
  | receive
  /-- a `TRANSMIT` in its sleep, which returns no earlier than `wake` on the clock (R150) -/
  | transmit (wake : Rat)
deriving DecidableEq, Repr

/-- What the host can do to the block (10_state.md R36, 70_reset_and_hazards.md R290). -/
inductive HostOp where
  | writeCmd (code : Byte)
  | writeOpa (v : U32)
  | writeOpb (v : U32)
  | writeOpc (v : U32)
  | writeTimeout (v : U32)
  | writeMsg (v : List Byte)
  | writeBits (v : List Bit)
  | writeRec (v : List Sample)
  | writeMsgLen (v : U32)
  | writeBitsLen (v : U32)
  | writeRecLen (v : U32)
  /-- the event `Reset` of R290 -/
  | reset
deriving DecidableEq, Repr

/-- One coming action of the host. A patient one waits for `busy` = 0 (R301); an impatient one is made
at once, and while `busy` = 1 it is refused by the block (R36). -/
structure HostAct where
  patient : Bool
  op      : HostOp
deriving DecidableEq, Repr

/-- The environment behind the primitives of 00_scope.md R13: its coming answers, and what has been
done to the devices. The model's own; none of it is state of the block (R42, R43). -/
structure Env where
  /-- the last value `Now` returned -/
  now       : Rat
  /-- coming answers of `Now`; then free values -/
  times     : List Rat
  /-- coming answers of `CapOpen`, `true` for ok; then free values -/
  opens     : List Bool
  /-- coming answers of `CapRead`; then free values -/
  reads     : List ReadAnswer
  /-- coming answers of `PlayWrite`, `true` for ok; then free values -/
  plays     : List Bool
  /-- coming samples of the capture stream; then free values -/
  capture   : List Sample
  /-- samples consumed from the capture stream so far (R42) -/
  capPos    : Nat
  /-- how many answers have been drawn -/
  draws     : Nat
  /-- the bursts the playback device has accepted, oldest first -/
  played    : List (List Sample)
  /-- how often the capture device was acquired -/
  capOpens  : Nat
  /-- how often it was released -/
  capCloses : Nat
deriving DecidableEq, Repr

/-- The state of the block (R20), then the host's coming actions and the environment. The length
registers `MSG_LEN`, `BITS_LEN`, `PCM_LEN`, `REC_LEN` are the lengths of the four lists (R31, log 7, log 17);
`busy` is whether `running` holds an operation. -/
structure State where
  /-- the CRC register (R21) -/
  crc         : U16
  /-- the phase accumulator, radians (R22) -/
  phase       : NumVal
  /-- `FBUF`, the modulator's working buffer (R23) -/
  fbuf        : List NumVal
  /-- the reference tables, a ROM (R25, log 13) -/
  rom         : RefTables
  /-- the receive state machine's state (R27) -/
  rxState     : RxState
  /-- the receive deadline, seconds on the clock (R28) -/
  deadline    : Rat
  /-- samples still to discard after start detection (R29) -/
  skipLeft    : Nat
  /-- the block holds the capture device (R30) -/
  capOpen     : Bool
  /-- `MSG` with `MSG_LEN` (R31) -/
  msg         : List Byte
  /-- `BITS` with `BITS_LEN` (R31) -/
  bits        : List Bit
  /-- `PCM` with `PCM_LEN` (R31) -/
  pcm         : List Sample
  /-- `REC` with `REC_LEN` (R31) -/
  recBuf      : List Sample
  /-- a code written to `CMD` whose operation has not started yet (R36, log 18) -/
  cmd         : Option Byte
  /-- `OPA` (R36) -/
  opa         : U32
  /-- `OPB` (R36) -/
  opb         : U32
  /-- `OPC` (R36) -/
  opc         : U32
  /-- the operation in progress, if one is; `STATUS.busy` (R36, R268) -/
  running     : Option Running
  /-- `STATUS.done` (R36, R268) -/
  done        : Bool
  /-- `STATUS.ok` (R36, R268) -/
  ok          : Bool
  /-- `ERR` (R36, R260) -/
  err         : ErrCode
  /-- `TIMEOUT_S` (R36) -/
  timeoutS    : U32
  /-- `RES_I` (R36) -/
  resI        : U32
  /-- `RES_N0` (R36) -/
  resN0       : NumVal
  /-- `RES_N1` (R36) -/
  resN1       : NumVal
  /-- `DIAG_STATE` (R37) -/
  diagState   : RxState
  /-- `DIAG_NBITS` (R37), as an unbounded count (log 8) -/
  diagNBits   : Nat
  /-- `DIAG_CRC_RX` (R37) -/
  diagCrcRx   : U16
  /-- `DIAG_CRC_CALC` (R37) -/
  diagCrcCalc : U16
  /-- the host's coming actions, next first -/
  host        : List HostAct
  /-- the environment -/
  env         : Env
deriving DecidableEq, Repr

/-- Reasons the machine stops with a fault: none. Every error outcome of R260 ends an operation in an
ordinary next state, and "No behaviour of this block is treated as `stuck`" (93_implementation_defined.md).
Nothing raises a fault, so no question of safety arises. -/
inductive Fault where
deriving DecidableEq, Repr

/-- Reasons the model gives no step. -/
inductive Refusal where
  /-- Raised by `exec`'s arms only, for an instruction with no meaning yet. Safe: the model stops. -/
  | notModelled (mnemonic : String)
  /-- Raised by a step in which the host resets the block while an operation runs: "`Reset` during an
  operation: `refuse`" (93_implementation_defined.md U12, R290). Safe: the model stops. -/
  | resetWhileRunning
deriving DecidableEq, Repr

/-- The environment before anything has happened. DESIGN CHOICE (log 4, log 5, log 14): no answer is
listed, so every answer is a free value. -/
def Env.start : Env where
  now := 0
  times := []
  opens := []
  reads := []
  plays := []
  capture := []
  capPos := 0
  draws := 0
  played := []
  capOpens := 0
  capCloses := 0

/-- The state after reset (R44, R290). -/
def State.reset : State where
  crc := Config.crcInit
  phase := .zero
  fbuf := []
  rom := refTables Config.params.num
  rxState := .idle
  deadline := 0
  skipLeft := 0
  capOpen := false
  msg := []
  bits := []
  pcm := []
  recBuf := []
  cmd := none
  opa := 0#32
  opb := 0#32
  opc := 0#32
  running := none
  done := false
  ok := false
  err := .none
  timeoutS := Config.defaultTimeoutS
  resI := 0#32
  resN0 := .zero
  resN1 := .zero
  diagState := .idle
  diagNBits := 0
  diagCrcRx := 0#16
  diagCrcCalc := 0#16
  host := []
  env := Env.start

end Sys2Proof.Machine
end

