-- ==== Sys2Proof/Machine/Flags.lean ====
section
/-! DEFINITION. `STATUS`, the numeric codes behind it, and what a host read of a register returns. The
block has no arithmetic flags (spec 10_state.md R36, R41, 60_exceptions.md R260). -/

namespace Sys2Proof.Machine

/-- The 3-bit code of a receive state (R27). -/
def RxState.code : RxState → Nat
  | .idle => 0
  | .awaitStart => 1
  | .recording => 2
  | .demodulating => 3
  | .validating => 4
  | .success => 5
  | .failed => 6

/-- The code of an error outcome in `ERR` (R260). -/
def ErrCode.code : ErrCode → Nat
  | .none => 0
  | .timeout => 1
  | .insufficientBits => 2
  | .invalidLength => 3
  | .crcMismatch => 4
  | .deviceError => 5
  | .illegalCommand => 6
  | .operandRange => 7

/-- `STATUS.busy`: an operation is running (R36). -/
def State.busy (s : State) : Bool := s.running.isSome

/-- The `STATUS` byte: bit 0 `busy`, bit 1 `done`, bit 2 `ok`, bit 3 `capOpen`, bits 6:4 `rxState`,
bit 7 zero (R36, R268). -/
def State.statusByte (s : State) : Byte :=
  BitVec.ofNat 8
    (s.busy.toNat + 2 * s.done.toNat + 4 * s.ok.toNat + 8 * s.capOpen.toNat + 16 * s.rxState.code)

/-- A count as a 32-bit register shows it; a free value where it does not fit (U21, log 8). -/
def countReg (n : Nat) : U32 := if n < 2 ^ 32 then BitVec.ofNat 32 n else Config.freeCount n

/-- What a host read of a register returns. -/
inductive RegValue where
  | byte (v : Byte)
  | word (v : U32)
  | num (v : NumVal)
deriving DecidableEq, Repr

/-- A host read of the register with index `idx` (R36). `none`: `CMD` is write only, and an index the
table does not list does not exist. -/
def readReg (s : State) : Nat → Option RegValue
  | 1 => some (.word s.opa)
  | 2 => some (.word s.opb)
  | 3 => some (.word s.opc)
  | 4 => some (.byte s.statusByte)
  | 5 => some (.byte (BitVec.ofNat 8 s.err.code))
  | 6 => some (.word s.timeoutS)
  | 7 => some (.word s.resI)
  | 8 => some (.num s.resN0)
  | 9 => some (.num s.resN1)
  | 10 => some (.word (countReg s.msg.length))
  | 11 => some (.word (countReg s.bits.length))
  | 12 => some (.word (countReg s.pcm.length))
  | 13 => some (.word (countReg s.recBuf.length))
  | _ => none

/-- What the host reads in `DIAG_STATE`, `DIAG_NBITS`, `DIAG_CRC_RX`, `DIAG_CRC_CALC` (R37). -/
def readDiag (s : State) : BitVec 3 × U32 × U16 × U16 :=
  (BitVec.ofNat 3 s.diagState.code, countReg s.diagNBits, s.diagCrcRx, s.diagCrcCalc)

end Sys2Proof.Machine
end

