-- ==== Sys2Proof/Machine/Operands.lean ====
section
/-! DEFINITION. The operands: what an operation reads from `OPA`, `OPB`, `OPC`, and the operand checks
(spec 30_encoding.md R84, R85, 60_exceptions.md R266). -/

namespace Sys2Proof.Machine

/-- `OPA[7:0]`, the byte of `CRC_BYTE`; bits 31:8 are ignored (R102). -/
def byteOperand (s : State) : Byte := s.opa.extractLsb' 0 8

/-- `OPA` as an unsigned integer. -/
def opA (s : State) : Nat := s.opa.toNat

/-- `OPB` as an unsigned integer. -/
def opB (s : State) : Nat := s.opb.toNat

/-- `OPC` as an unsigned integer. -/
def opC (s : State) : Nat := s.opc.toNat

/-- The operands of `TONE` are in range: `f < 2^31` and `ms ≤ 3600000` (R143, R266). -/
def toneOperandsOk (f ms : Nat) : Bool := decide (f < 2 ^ 31) && decide (ms ≤ 3600000)

/-- The operands of `GOERTZEL_POWER` and `TONE_DETECT` are in range for a recording of `len` samples
(R174, R175, R266). -/
def windowOperandsOk (a n f len : Nat) : Bool :=
  decide (n ≠ 0) && decide (a + n ≤ len) && decide (f < 2 ^ 31)

/-- The operand of `SYM_ENERGY` is in range: the symbol window fits (R195, R266). -/
def symbolOperandOk (d len : Nat) : Bool := decide (d + Config.symbolSamples ≤ len)

/-- The operand of `BIT_EXTRACT` is in range (R197, R266). -/
def startOperandOk (p len : Nat) : Bool := decide (p ≤ len)

/-- `MSG` has an encoding: its length fits the 16-bit length field (R72, R123, R266). -/
def messageLengthOk (n : Nat) : Bool := decide (n ≤ 65535)

end Sys2Proof.Machine
end

