-- ==== Sys2Proof/Machine/Ops.lean ====
section
/-! DEFINITION. The operations every meaning is built from: how an operation starts and ends (an
error outcome included), the environment's primitives, and how a host write changes a length
register (spec 60_exceptions.md R268, 00_scope.md R13, 10_state.md R36). -/

namespace Sys2Proof.Machine

/-! ## How an operation starts and ends (R268) -/

/-- An operation that extends over time starts: `busy <- 1`, `done <- 0` (R268). `ok` and `ERR` keep
the values of the last ended operation (R36, R268, log 16). -/
def startOp (r : Running) (s : State) : State :=
  { s with running := some r, done := false }

/-- An operation ends, with outcome `e`: `busy <- 0`, `done <- 1`, `ok` and `ERR` by the outcome. For
`e` an error this is the whole of raising it, the block's analogue of taking an exception: nothing is
saved, no mode changes, control goes nowhere (R268). There is no return from it (R269). -/
def endOp (e : ErrCode) (s : State) : State :=
  { s with running := none, done := true, ok := decide (e = .none), err := e }

/-- An operation's body has left a state and an outcome: the operation ends with it (R268). -/
def conclude (r : State × ErrCode) : State := endOp r.2 r.1

/-- The machine goes on: the one outcome of every operation of this block. -/
def goOn (s : State) : Host.Outcome State Fault Refusal := .next s

/-! ## The environment's primitives (R13) -/

/-- `Now()`: the next answer of the clock, never below the one before it (R13). -/
def readClock (s : State) : Rat × State :=
  let answer := s.env.times.headD (Config.freeTime s.env.draws)
  let now := if s.env.now ≤ answer then answer else s.env.now
  (now, { s with env := { s.env with
    now := now, times := s.env.times.tail, draws := s.env.draws + 1 } })

/-- `CapOpen()`: the next answer of the capture device; on ok the device is acquired (R13). The block's
own `capOpen` is written by the caller (R221). -/
def openCapture (s : State) : Bool × State :=
  let ok := s.env.opens.headD (Config.freeOpen s.env.draws)
  (ok, { s with env := { s.env with
    opens := s.env.opens.tail, draws := s.env.draws + 1,
    capOpens := if ok then s.env.capOpens + 1 else s.env.capOpens } })

/-- `CapClose()`: the capture device is released; it has no failure result (R13, R269). -/
def closeCapture (s : State) : State :=
  { s with capOpen := false, env := { s.env with capCloses := s.env.capCloses + 1 } }

/-- The next `k` samples of the capture stream, in stream order (R13). -/
def nextSamples (k : Nat) (e : Env) : List Sample :=
  e.capture.take k ++
    (List.range (k - e.capture.length)).map fun i =>
      Config.freeSample (e.capPos + e.capture.length + i)

/-- `CapRead(n)`: `none` is `DeviceError`; otherwise the next `k ≤ n` samples, which are consumed
(R13, R57). An answer that is ready to give more than `n` gives `n` (log 20). -/
def readCapture (n : Nat) (s : State) : Option (List Sample) × State :=
  let e := { s.env with reads := s.env.reads.tail, draws := s.env.draws + 1 }
  match s.env.reads.headD (Config.freeRead s.env.draws) with
  | .error => (none, { s with env := e })
  | .ready k =>
    (some (nextSamples (min k n) s.env), { s with env := { e with
      capture := s.env.capture.drop (min k n), capPos := s.env.capPos + min k n } })

/-- `PlayWrite(P)`: the playback device accepts the whole list `P`, or reports an error (R13,
log 21). -/
def playWrite (p : List Sample) (s : State) : Bool × State :=
  let ok := s.env.plays.headD (Config.freePlay s.env.draws)
  (ok, { s with env := { s.env with
    plays := s.env.plays.tail, draws := s.env.draws + 1,
    played := if ok then s.env.played ++ [p] else s.env.played } })

/-! ## Length registers (R31, R36) -/

/-- The list after its length register was set to `n`: elements below both lengths stay, elements the
new length adds are free values drawn from `free` at `draws` (log 7). -/
def resize {α : Type} (free : Nat → α) (draws n : Nat) (xs : List α) : List α :=
  xs.take n ++ (List.range (n - xs.length)).map fun i => free (draws + i)

/-- The counter of free values after a list of length `len` was resized to `n`. -/
def drawsAfterResize (draws n len : Nat) : Nat := draws + (n - len)

end Sys2Proof.Machine
end

