-- ==== Sys2Proof/Machine/Crc.lean ====
section
/-! DEFINITION. The CRC-16-CCITT generator: `CRC_INIT`, `CRC_BYTE`, `CRC_READ`, `CRC_BLOCK`
(spec 40_crc.md). -/

namespace Sys2Proof.Machine

/-- One iteration of R102: shift left, and XOR the polynomial when the bit shifted out was 1. -/
def crcShift (t : U16) : U16 :=
  if t.getLsbD 15 then (t <<< 1) ^^^ Config.crcPoly else t <<< 1

/-- `n` iterations of R102. -/
def crcShifts : Nat → U16 → U16
  | 0, t => t
  | n + 1, t => crcShifts n (crcShift t)

/-- One byte absorbed, most significant bit first (R102). -/
def crcByte (crc : U16) (b : Byte) : U16 :=
  crcShifts 8 (crc ^^^ (b.setWidth 16 <<< 8))

/-- `CRC16(B)` (R105). -/
def crc16 (bytes : List Byte) : U16 := bytes.foldl crcByte Config.crcInit

/-- `CRC_INIT` (R101). -/
def execCrcInit (s : State) : Host.Outcome State Fault Refusal :=
  goOn (conclude ({ s with crc := Config.crcInit }, .none))

/-- `CRC_BYTE` (R102). -/
def execCrcByte (s : State) : Host.Outcome State Fault Refusal :=
  goOn (conclude ({ s with crc := crcByte s.crc (byteOperand s) }, .none))

/-- `CRC_READ` (R104). -/
def execCrcRead (s : State) : Host.Outcome State Fault Refusal :=
  goOn (conclude ({ s with resI := s.crc.setWidth 32 }, .none))

/-- `CRC_BLOCK` (R106). -/
def execCrcBlock (s : State) : Host.Outcome State Fault Refusal :=
  goOn (conclude ({ s with crc := crc16 s.msg, resI := (crc16 s.msg).setWidth 32 }, .none))

end Sys2Proof.Machine
end

