-- ==== Sys2Proof/Machine/Goertzel.lean ====
section
/-! DEFINITION. The Goertzel single-frequency power detector: `GOERTZEL_POWER`, `TONE_DETECT` (spec
43_goertzel.md). -/

namespace Sys2Proof.Machine

/-- A sample as its integer value in `NUM` (R171, R251). -/
def sampleNum (K : NumOps) (x : Sample) : NumVal := K.num x.toInt

/-- The bin index `k`: `n f / 44100` rounded, halves up (R171). -/
def binIndex (n f : Nat) : Nat := (2 * n * f + Config.sampleRate) / (2 * Config.sampleRate)

/-- The coefficient `c = 2 cos(ω)`, `ω = 2 π k / n` (R171). -/
def goertzelCoeff (K : NumOps) (n f : Nat) : NumVal :=
  K.times (K.num 2) (K.cosine (K.quot (K.times K.twoPi (K.num (binIndex n f))) (K.num n)))

/-- One sample of the recurrence on `(s1, s2)` (R171). -/
def goertzelStep (K : NumOps) (c : NumVal) (st : NumVal × NumVal) (x : Sample) : NumVal × NumVal :=
  (K.minus (K.plus (sampleNum K x) (K.times c st.1)) st.2, st.1)

/-- `s1² + s2² − c·s1·s2` (R171). -/
def goertzelResult (K : NumOps) (c : NumVal) (st : NumVal × NumVal) : NumVal :=
  K.minus (K.plus (K.times st.1 st.1) (K.times st.2 st.2)) (K.times (K.times c st.1) st.2)

/-- `GoertzelPower(X, f)` (R171). -/
def goertzelPower (K : NumOps) (x : List Sample) (f : Nat) : NumVal :=
  let c := goertzelCoeff K x.length f
  goertzelResult K c (x.foldl (goertzelStep K c) (.zero, .zero))

/-- `POWER_THRESHOLD`, a positive value: as supplied if that is positive, else 1 (R8, log 3). -/
def powerThreshold (P : Params) : NumVal :=
  if P.threshold.gt .zero then P.threshold else ⟨1⟩

/-- `TonePresent` for a power that has been computed: strictly above the threshold (R173). -/
def aboveThreshold (P : Params) (power : NumVal) : Bool := power.gt (powerThreshold P)

/-- The window of `REC` that `GOERTZEL_POWER` and `TONE_DETECT` name (R174). -/
def operandWindow (s : State) : List Sample := (s.recBuf.drop (opA s)).take (opB s)

/-- The operand check of `GOERTZEL_POWER` and `TONE_DETECT` (R174, R175). -/
def goertzelOperandsOk (s : State) : Bool := windowOperandsOk (opA s) (opB s) (opC s) s.recBuf.length

/-- The body of `GOERTZEL_POWER` (R174). -/
def powerBody (P : Params) (s : State) : State × ErrCode :=
  if goertzelOperandsOk s then
    ({ s with resN0 := goertzelPower P.num (operandWindow s) (opC s) }, .none)
  else (s, .operandRange)

/-- The body of `TONE_DETECT` (R175). -/
def detectBody (P : Params) (s : State) : State × ErrCode :=
  if goertzelOperandsOk s then
    let power := goertzelPower P.num (operandWindow s) (opC s)
    ({ s with resN0 := power, resI := if aboveThreshold P power then 1#32 else 0#32 }, .none)
  else (s, .operandRange)

/-- `GOERTZEL_POWER` (R174). -/
def execGoertzelPower (s : State) : Host.Outcome State Fault Refusal :=
  goOn (conclude (powerBody Config.params s))

/-- `TONE_DETECT` (R175). -/
def execToneDetect (s : State) : Host.Outcome State Fault Refusal :=
  goOn (conclude (detectBody Config.params s))

end Sys2Proof.Machine
end

