-- ==== Sys2Proof/Machine/Demodulator.lean ====
section
/-! DEFINITION. The sub-symbol timing correlator and the quadrature-energy demodulator: `SYM_ENERGY`,
`OFFSET_SEARCH`, `BIT_EXTRACT`, `DEMODULATE` (spec 44_demodulator.md). -/

namespace Sys2Proof.Machine

/-- `Normalise(x)` (R191). -/
def normalise (K : NumOps) (x : Sample) : NumVal := K.quot (sampleNum K x) (K.num 32768)

/-- A correlation: the sum of products in index order, from `num(0)` (R192, R258). -/
def correlate (K : NumOps) (w ref : List NumVal) : NumVal :=
  (w.zip ref).foldl (fun acc p => K.plus acc (K.times p.1 p.2)) .zero

/-- The energy of a sine and a cosine correlation (R192). -/
def quadEnergy (K : NumOps) (cs cc : NumVal) : NumVal :=
  K.root (K.plus (K.times cs cs) (K.times cc cc))

/-- The normalised symbol window at offset `d` (R192). -/
def symbolWindow (K : NumOps) (r : List Sample) (d : Nat) : List NumVal :=
  ((r.drop d).take Config.symbolSamples).map (normalise K)

/-- `SymEnergy(R, d)`: the pair of energies (R192). -/
def symEnergy (K : NumOps) (rom : RefTables) (r : List Sample) (d : Nat) : NumVal × NumVal :=
  let w := symbolWindow K r d
  (quadEnergy K (correlate K w rom.sin0) (correlate K w rom.cos0),
   quadEnergy K (correlate K w rom.sin1) (correlate K w rom.cos1))

/-- The bit a window gives: 1 only if `energy1 > energy0` (R197). -/
def energyBit (e : NumVal × NumVal) : Bit := e.2.gt e.1

/-- `max(energy0, energy1)` (R196). -/
def energyMax (e : NumVal × NumVal) : NumVal := if e.2.gt e.1 then e.2 else e.1

/-- The candidate offsets 0, 4, … up to `min(L − 1764, 1764)` inclusive; none for `L < 1764` (R196). -/
def candidates (len : Nat) : List Nat :=
  if len < Config.symbolSamples then []
  else (List.range (min (len - Config.symbolSamples) Config.symbolSamples / Config.searchStep + 1)).map
    (Config.searchStep * ·)

/-- One candidate against the best so far: replaced only by a strictly larger energy (R196). -/
def considerOffset (m : Nat → NumVal) (best : Nat × NumVal) (d : Nat) : Nat × NumVal :=
  if (m d).gt best.2 then (d, m d) else best

/-- The best offset and its energy (R196). -/
def searchOffset (K : NumOps) (rom : RefTables) (r : List Sample) : Nat × NumVal :=
  (candidates r.length).foldl (considerOffset fun d => energyMax (symEnergy K rom r d)) (0, .zero)

/-- The bits of the whole windows from offset `p` on (R197). -/
def extractBits (K : NumOps) (rom : RefTables) (r : List Sample) (p : Nat) : List Bit :=
  (List.range ((r.length - p) / Config.symbolSamples)).map fun j =>
    energyBit (symEnergy K rom r (p + Config.symbolSamples * j))

/-- The body of `SYM_ENERGY` (R195). -/
def energyBody (K : NumOps) (s : State) : State × ErrCode :=
  if symbolOperandOk (opA s) s.recBuf.length then
    let e := symEnergy K s.rom s.recBuf (opA s)
    ({ s with resN0 := e.1, resN1 := e.2, resI := if energyBit e then 1#32 else 0#32 }, .none)
  else (s, .operandRange)

/-- The effect of `OFFSET_SEARCH` (R196). -/
def searchBody (K : NumOps) (s : State) : State :=
  let best := searchOffset K s.rom s.recBuf
  { s with resI := BitVec.ofNat 32 best.1, resN0 := best.2 }

/-- The effect of `BIT_EXTRACT` from offset `p` (R197). -/
def extractBody (K : NumOps) (p : Nat) (s : State) : State × ErrCode :=
  if startOperandOk p s.recBuf.length then
    ({ s with bits := extractBits K s.rom s.recBuf p }, .none)
  else (s, .operandRange)

/-- The effect of `DEMODULATE`: the search, then the extraction from `RES_I` (R198). -/
def demodulateBody (K : NumOps) (s : State) : State × ErrCode :=
  let t := searchBody K s
  extractBody K t.resI.toNat t

/-- `SYM_ENERGY` (R195). -/
def execSymEnergy (s : State) : Host.Outcome State Fault Refusal :=
  goOn (conclude (energyBody Config.params.num s))

/-- `OFFSET_SEARCH` (R196). -/
def execOffsetSearch (s : State) : Host.Outcome State Fault Refusal :=
  goOn (conclude (searchBody Config.params.num s, .none))

/-- `BIT_EXTRACT` (R197). -/
def execBitExtract (s : State) : Host.Outcome State Fault Refusal :=
  goOn (conclude (extractBody Config.params.num (opA s) s))

/-- `DEMODULATE` (R198). -/
def execDemodulate (s : State) : Host.Outcome State Fault Refusal :=
  goOn (conclude (demodulateBody Config.params.num s))

end Sys2Proof.Machine
end

