-- ==== Sys2Proof/Machine/FrameCodec.lean ====
section
/-! DEFINITION. The frame encoder and decoder: `FRAME_ENCODE`, `FRAME_DECODE` (spec 41_frame_codec.md,
30_encoding.md R70 to R74). -/

namespace Sys2Proof.Machine

/-! ## Byte and bit order (R52, R53) -/

/-- `v[15:8]`. -/
def highByte (v : U16) : Byte := v.extractLsb' 8 8

/-- `v[7:0]`. -/
def lowByte (v : U16) : Byte := v.extractLsb' 0 8

/-- A `u16` as two bytes, big-endian (R52). -/
def bigEndian (v : U16) : List Byte := [highByte v, lowByte v]

/-- The integer two big-endian bytes hold (R71, R124). -/
def fieldValue (hi lo : Byte) : Nat := hi.toNat * 256 + lo.toNat

/-- The bits of a byte, most significant first (R53). -/
def byteBits (b : Byte) : List Bit :=
  [b.getLsbD 7, b.getLsbD 6, b.getLsbD 5, b.getLsbD 4,
   b.getLsbD 3, b.getLsbD 2, b.getLsbD 1, b.getLsbD 0]

/-- `BytesToBits(B)` (R120). -/
def bytesToBits (bytes : List Byte) : List Bit := bytes.flatMap byteBits

/-- The byte eight bits spell, most significant first (R121). -/
def bitsByte (b7 b6 b5 b4 b3 b2 b1 b0 : Bit) : Byte :=
  BitVec.ofNat 8 (128 * b7.toNat + 64 * b6.toNat + 32 * b5.toNat + 16 * b4.toNat +
    8 * b3.toNat + 4 * b2.toNat + 2 * b1.toNat + b0.toNat)

/-- `BitsToBytes(S)` (R121), for a list whose length is a multiple of 8. -/
def bitsToBytes : List Bit → List Byte
  | b7 :: b6 :: b5 :: b4 :: b3 :: b2 :: b1 :: b0 :: rest =>
    bitsByte b7 b6 b5 b4 b3 b2 b1 b0 :: bitsToBytes rest
  | _ => []

/-! ## Encoding (R70, R71, R123) -/

/-- The length bytes and the payload, what the CRC covers (R70, R123). -/
def frameHead (m : List Byte) : List Byte := bigEndian (BitVec.ofNat 16 m.length) ++ m

/-- The frame of a message (R70). -/
def frameBytes (m : List Byte) : List Byte := frameHead m ++ bigEndian (crc16 (frameHead m))

/-- The body of `FRAME_ENCODE` (R123). On `OperandRange` nothing is changed (R268). -/
def frameEncode (s : State) : State × ErrCode :=
  if messageLengthOk s.msg.length then
    ({ s with crc := crc16 (frameHead s.msg), bits := bytesToBits (frameBytes s.msg) }, .none)
  else (s, .operandRange)

/-- `FRAME_ENCODE` (R123). -/
def execFrameEncode (s : State) : Host.Outcome State Fault Refusal :=
  goOn (conclude (frameEncode s))

/-! ## Decoding (R124 to R127) -/

/-- Two bytes of a byte list as a big-endian integer (R124). -/
def fieldAt (bytes : List Byte) (i : Nat) : Nat :=
  fieldValue (bytes.getD i 0#8) (bytes.getD (i + 1) 0#8)

/-- The length field: the first 16 bits of the sequence (R124 step 2). -/
def lengthField (bits : List Bit) : Nat := fieldAt (bitsToBytes (bits.take 16)) 0

/-- How many bits a frame of `n` payload bytes has (R73, R124). -/
def frameBitCount (n : Nat) : Nat := 16 + 8 * n + 16

/-- A failed decode delivers no part of a message (R127). -/
def noMessage (s : State) : State := { s with msg := [] }

/-- Steps 4 and 5 of R124, for a length field `n` that passed steps 1 to 3. -/
def frameCheck (n : Nat) (s : State) : State × ErrCode :=
  let frame := bitsToBytes (s.bits.take (frameBitCount n))
  let computed := crc16 (frame.take (n + 2))
  let received := fieldAt frame (n + 2)
  let checked := { s with
    crc := computed, diagCrcCalc := computed, diagCrcRx := BitVec.ofNat 16 received }
  if computed.toNat = received then ({ checked with msg := (frame.drop 2).take n }, .none)
  else (noMessage checked, .crcMismatch)

/-- The body of `FRAME_DECODE`: the five steps of R124 in their order (R125). -/
def frameDecode (s : State) : State × ErrCode :=
  let s := { s with diagNBits := s.bits.length }
  let n := lengthField s.bits
  if s.bits.length < Config.minFrameBits then (noMessage s, .insufficientBits)
  else if n = 0 ∨ Config.maxLen < n then (noMessage s, .invalidLength)
  else if s.bits.length < frameBitCount n then (noMessage s, .insufficientBits)
  else frameCheck n s

/-- `FRAME_DECODE` as the host issues it: on an error `DIAG_STATE <- 0` (R268). -/
def execFrameDecode (s : State) : Host.Outcome State Fault Refusal :=
  let r := frameDecode s
  goOn (conclude (if r.2 = .none then r.1 else { r.1 with diagState := .idle }, r.2))

end Sys2Proof.Machine
end

