-- ==== Sys2Proof/Machine/Modulator.lean ====
section
/-! DEFINITION. The FSK modulator: `MOD_RESET`, `TONE`, `MOD_BITS`, `BUILD_FRAME`, `ENCODE_MESSAGE`,
`TRANSMIT` (spec 42_fsk_modulator.md). -/

namespace Sys2Proof.Machine

/-- `SampleCount(ms)` (R141). -/
def sampleCount (ms : Nat) : Nat := ms * Config.sampleRate / 1000

/-- The clamp of R146 to [−32767, 32767]; the lower bound is that of 90_conflicts.md C2. -/
def clampPcm (K : NumOps) (y : NumVal) : NumVal :=
  let y := if y.gt (K.num Config.pcmMax) then K.num Config.pcmMax else y
  if (K.num (-Config.pcmMax)).gt y then K.num (-Config.pcmMax) else y

/-- `Quantise(v)` (R146): scale, clamp, round toward zero. -/
def quantise (K : NumOps) (v : NumVal) : Sample :=
  BitVec.ofInt 16 (clampPcm K (K.times v (K.num Config.pcmMax))).trunc

/-- The value of sample `i` of a tone of `f` hertz that starts at `phase` (R143). -/
def toneValue (K : NumOps) (phase : NumVal) (f i : Nat) : NumVal :=
  K.times (K.sine (K.plus phase (K.angle f i))) (K.num Config.amplitude)

/-- The `n` values a `TONE` appends: silence is exactly `num(0)` (R143, R144). -/
def toneValues (K : NumOps) (phase : NumVal) (f n : Nat) : List NumVal :=
  if f = 0 then List.replicate n .zero else (List.range n).map (toneValue K phase f)

/-- The effect of `TONE` with frequency `f` and duration `ms` (R143). -/
def playTone (K : NumOps) (f ms : Nat) (s : State) : State :=
  { s with
    fbuf := s.fbuf ++ toneValues K s.phase f (sampleCount ms)
    phase := K.plus s.phase (K.angle f (sampleCount ms)) }

/-- The effect of `MOD_RESET` (R142). -/
def clearModulator (s : State) : State := { s with phase := .zero, fbuf := [] }

/-- One bit as one symbol (R75, R145). -/
def playBit (K : NumOps) (s : State) (b : Bit) : State :=
  playTone K (if b then Config.freqOne else Config.freqZero) Config.symbolMs s

/-- The effect of `MOD_BITS` (R145). -/
def playBits (K : NumOps) (s : State) : State := s.bits.foldl (playBit K) s

/-- The working signal of a whole burst (R76, R148). -/
def playBurst (K : NumOps) (s : State) : State :=
  playTone K Config.freqEnd Config.endMs
    (playBits K
      (playTone K 0 Config.silenceMs
        (playTone K Config.freqStart Config.preambleMs (clearModulator s))))

/-- The effect of `BUILD_FRAME` (R148). -/
def buildBurst (K : NumOps) (s : State) : State :=
  let s := playBurst K s
  { s with pcm := s.fbuf.map (quantise K) }

/-- The body of `ENCODE_MESSAGE` (R149). -/
def encodeBurst (K : NumOps) (s : State) : State × ErrCode :=
  match frameEncode s with
  | (t, .none) => (buildBurst K t, .none)
  | (t, e) => (t, e)

/-- The body of `TONE` (R143). -/
def toneBody (K : NumOps) (s : State) : State × ErrCode :=
  if toneOperandsOk (opA s) (opB s) then (playTone K (opA s) (opB s) s, .none)
  else (s, .operandRange)

/-- The length of the sleep after `PlayWrite`, in seconds (R150). -/
def sleepSeconds (P : Params) (n : Nat) : Rat := (n : Rat) / 44100 + (P.txSlackMs : Rat) / 1000

/-- `TRANSMIT` starts: `PlayWrite`, then the sleep begins; on `DeviceError` no sleep is performed (R150,
R268). -/
def startTransmit (P : Params) (s : State) : State :=
  match playWrite s.pcm s with
  | (true, t) =>
    let clock := readClock t
    startOp (.transmit (clock.1 + sleepSeconds P s.pcm.length)) clock.2
  | (false, t) => endOp .deviceError t

/-- One step of a `TRANSMIT` in its sleep: the sleep returns once the clock has reached its end (R13,
R150, log 10). -/
def transmitStep (wake : Rat) (s : State) : State :=
  let clock := readClock s
  if wake ≤ clock.1 then endOp .none clock.2 else clock.2

/-- `MOD_RESET` (R142). -/
def execModReset (s : State) : Host.Outcome State Fault Refusal :=
  goOn (conclude (clearModulator s, .none))

/-- `TONE` (R143). -/
def execTone (s : State) : Host.Outcome State Fault Refusal :=
  goOn (conclude (toneBody Config.params.num s))

/-- `MOD_BITS` (R145). -/
def execModBits (s : State) : Host.Outcome State Fault Refusal :=
  goOn (conclude (playBits Config.params.num s, .none))

/-- `BUILD_FRAME` (R148). -/
def execBuildFrame (s : State) : Host.Outcome State Fault Refusal :=
  goOn (conclude (buildBurst Config.params.num s, .none))

/-- `ENCODE_MESSAGE` (R149). -/
def execEncodeMessage (s : State) : Host.Outcome State Fault Refusal :=
  goOn (conclude (encodeBurst Config.params.num s))

/-- `TRANSMIT` up to its sleep (R150); `transmitStep` takes it from there. -/
def execTransmit (s : State) : Host.Outcome State Fault Refusal :=
  goOn (startTransmit Config.params s)

end Sys2Proof.Machine
end

