-- ==== Sys2Proof/Machine/Receiver.lean ====
section
/-! DEFINITION. The receive state machine: the entry of `RECEIVE`, one definition per step, and the
exits (spec 45_receiver_fsm.md). -/

namespace Sys2Proof.Machine

/-! ## Exits (R228, R229) -/

/-- The capture device is released if it is held (R229, R230). -/
def releaseCapture (s : State) : State := if s.capOpen then closeCapture s else s

/-- `Succeed()` (R228). `DIAG_STATE` keeps its value (log 15). -/
def rxSucceed (s : State) : State :=
  endOp .none { closeCapture s with rxState := .success }

/-- `Fail(E)` (R229). -/
def rxFail (e : ErrCode) (s : State) : State :=
  endOp e { releaseCapture { s with diagState := s.rxState, msg := [] } with rxState := .failed }

/-! ## Entry (R221) -/

/-- The part of the entry before the device is acquired (R221). -/
def rxClear (s : State) : State :=
  let clock := readClock { s with msg := [], bits := [], recBuf := [], skipLeft := 0 }
  { clock.2 with deadline := clock.1 + (s.timeoutS.toNat : Rat) }

/-- The entry of `RECEIVE` (R221). A failed `CapOpen` has nothing to release and leaves `DIAG_STATE` 0
(R231). -/
def rxEnter (s : State) : State :=
  match openCapture (rxClear s) with
  | (true, t) => startOp .receive { t with capOpen := true, rxState := .awaitStart }
  | (false, t) => endOp .deviceError { t with diagState := .idle, rxState := .failed }

/-! ## Steps (R222 to R227) -/

/-- The deadline test made before every capture read, then what follows if it has not passed (R222,
R224). -/
def beforeDeadline (late early : State → State) (s : State) : State :=
  let clock := readClock s
  if clock.2.deadline ≤ clock.1 then late clock.2 else early clock.2

/-- A capture read of `n` samples; a device error fails the receive (R222, R231). -/
def withRead (n : Nat) (use : List Sample → State → State) (s : State) : State :=
  match readCapture n s with
  | (none, t) => rxFail .deviceError t
  | (some w, t) => use w t

/-- A window is full, and its power at `f` hertz is above the threshold (R222, R225). -/
def detects (P : Params) (size f : Nat) (w : List Sample) : Bool :=
  decide (w.length = size) && aboveThreshold P (goertzelPower P.num w f)

/-- Listening, after the read: on detection the skip begins, otherwise the window is discarded (R222). -/
def rxHeard (P : Params) (w : List Sample) (s : State) : State :=
  if detects P Config.startWindow Config.freqStart w then
    { s with
      skipLeft := P.startSkip
      rxState := if P.startSkip = 0 then .recording else s.rxState }
  else s

/-- The step in `AWAIT_START_PREAMBLE`, listening (R222). -/
def rxListen (P : Params) (s : State) : State :=
  beforeDeadline (rxFail .timeout) (withRead Config.startWindow (rxHeard P)) s

/-- Skipping, after the read: what was read is discarded and counted (R224). -/
def rxSkipped (w : List Sample) (s : State) : State :=
  { s with
    skipLeft := s.skipLeft - w.length
    rxState := if s.skipLeft - w.length = 0 then .recording else s.rxState }

/-- The step in `AWAIT_START_PREAMBLE`, skipping (R224). -/
def rxSkip (s : State) : State :=
  beforeDeadline (rxFail .timeout) (withRead s.skipLeft rxSkipped) s

/-- The recording fits what the implementation can hold (R58, U7). -/
def recordingFits (P : Params) (n : Nat) : Bool :=
  match P.recCapacity with
  | none => true
  | some cap => decide (n ≤ cap)

/-- A recording cut to what the implementation can hold (R58). -/
def cutRecording (P : Params) (r : List Sample) : List Sample :=
  match P.recCapacity with
  | none => r
  | some cap => r.take cap

/-- Recording, after the read: every sample is appended, and a full window with the end tone ends the
recording (R225). Past the implementation's capacity the receive fails (R58, U7, log 3, log 22). -/
def rxRecorded (P : Params) (w : List Sample) (s : State) : State :=
  if recordingFits P (s.recBuf.length + w.length) then
    { s with
      recBuf := s.recBuf ++ w
      rxState := if detects P Config.endWindow Config.freqEnd w then .demodulating else s.rxState }
  else rxFail .deviceError s

/-- The deadline has passed while recording: fail if nothing was recorded, else go on with what there
is (R225). -/
def rxRecordLate (s : State) : State :=
  if s.recBuf.length = 0 then rxFail .timeout s else { s with rxState := .demodulating }

/-- The step in `RECORDING_UNTIL_END_PREAMBLE` (R225). -/
def rxRecord (P : Params) (s : State) : State :=
  beforeDeadline rxRecordLate (withRead Config.endWindow (rxRecorded P)) s

/-- The step in `DEMODULATING` (R226). -/
def rxDemodulate (K : NumOps) (s : State) : State :=
  let t := (demodulateBody K s).1
  let u := { t with diagNBits := t.bits.length }
  if u.bits.length < Config.minFrameBits then rxFail .insufficientBits u
  else { u with rxState := .validating }

/-- The step in `VALIDATING` (R227). -/
def rxValidate (s : State) : State :=
  let r := frameDecode s
  if r.2 = .none then rxSucceed r.1 else rxFail r.2 r.1

/-- One step of a running `RECEIVE` (R220). No run reaches it in a state that is not one of codes 1 to 4
(R230); there it changes nothing (log 12). -/
def receiveStep (P : Params) (s : State) : State :=
  match s.rxState with
  | .awaitStart => if s.skipLeft = 0 then rxListen P s else rxSkip s
  | .recording => rxRecord P s
  | .demodulating => rxDemodulate P.num s
  | .validating => rxValidate s
  | .idle => s
  | .success => s
  | .failed => s

/-- `RECEIVE` up to its first step (R221); `receiveStep` takes it from there. -/
def execReceive (s : State) : Host.Outcome State Fault Refusal :=
  goOn (rxEnter s)

end Sys2Proof.Machine
end

