-- ==== Sys2Proof/Machine/Dispatch.lean ====
section
/-! DEFINITION. The meaning of every operation, one arm each (spec 30_encoding.md R85). -/

namespace Sys2Proof.Machine

def exec (i : Instr) (s : State) : Host.Outcome State Fault Refusal :=
  match i with
  | .crcInit => Sys2Proof.Machine.execCrcInit s
  | .crcByte => Sys2Proof.Machine.execCrcByte s
  | .crcRead => Sys2Proof.Machine.execCrcRead s
  | .crcBlock => Sys2Proof.Machine.execCrcBlock s
  | .frameEncode => Sys2Proof.Machine.execFrameEncode s
  | .frameDecode => Sys2Proof.Machine.execFrameDecode s
  | .modReset => Sys2Proof.Machine.execModReset s
  | .tone => Sys2Proof.Machine.execTone s
  | .modBits => Sys2Proof.Machine.execModBits s
  | .buildFrame => Sys2Proof.Machine.execBuildFrame s
  | .encodeMessage => Sys2Proof.Machine.execEncodeMessage s
  | .transmit => Sys2Proof.Machine.execTransmit s
  | .goertzelPower => Sys2Proof.Machine.execGoertzelPower s
  | .toneDetect => Sys2Proof.Machine.execToneDetect s
  | .symEnergy => Sys2Proof.Machine.execSymEnergy s
  | .offsetSearch => Sys2Proof.Machine.execOffsetSearch s
  | .bitExtract => Sys2Proof.Machine.execBitExtract s
  | .demodulate => Sys2Proof.Machine.execDemodulate s
  | .receive => Sys2Proof.Machine.execReceive s

end Sys2Proof.Machine
end

