-- ==== Sys2Proof/Machine/HostPort.lean ====
section
/-! DEFINITION. The host's side: what its actions do, whose turn it is, a reserved command, and one step
of an operation in progress (spec 10_state.md R36, 60_exceptions.md R266, R268, 70_reset_and_hazards.md R290). -/

namespace Sys2Proof.Machine

/-- The event `Reset`: every piece of the block's state at its value of R44. The host's coming actions and
the environment are not the block's and go on (R290, R291, log 11). -/
def resetBlock (s : State) : State := { State.reset with host := s.host, env := s.env }

/-- The counter of free values after a host write of a length register made `n` of `len` elements. -/
def spendDraws (n len : Nat) (s : State) : State :=
  { s with env := { s.env with draws := drawsAfterResize s.env.draws n len } }

/-- A host write of `v` as the content of `REC` (R36). `REC_CAPACITY` bounds `REC_LEN` (R58): a write that an
implementation's capacity cannot hold leaves a free value within it, because the spec gives an outcome for
`RECEIVE` alone (DESIGN CHOICE, log 23). -/
def storeRec (P : Params) (v : List Sample) (s : State) : State :=
  if recordingFits P v.length then { s with recBuf := v }
  else { s with
    recBuf := cutRecording P (Config.freeRecWrite s.env.draws s.recBuf v)
    env := { s.env with draws := s.env.draws + 1 } }

/-- What a host action does while `busy` = 0 (R36, R290). A write of a buffer replaces its content and
length (R12, R88). -/
def hostAction (a : HostOp) (s : State) : State :=
  match a with
  | .writeCmd code => { s with cmd := some code }
  | .writeOpa v => { s with opa := v }
  | .writeOpb v => { s with opb := v }
  | .writeOpc v => { s with opc := v }
  | .writeTimeout v => { s with timeoutS := v }
  | .writeMsg v => { s with msg := v }
  | .writeBits v => { s with bits := v }
  | .writeRec v => storeRec Config.params v s
  | .writeMsgLen v =>
    spendDraws v.toNat s.msg.length
      { s with msg := resize Config.freeByte s.env.draws v.toNat s.msg }
  | .writeBitsLen v =>
    spendDraws v.toNat s.bits.length
      { s with bits := resize Config.freeBit s.env.draws v.toNat s.bits }
  | .writeRecLen v =>
    storeRec Config.params (resize Config.freeRecSample s.env.draws v.toNat s.recBuf)
      (spendDraws v.toNat s.recBuf.length s)
  | .reset => resetBlock s

/-- What a host action does while `busy` = 1: a write has no effect (R36, D32, log 19); a reset is not described
and is refused (R290, U12). -/
def hostActionBusy (a : HostOp) (s : State) : Host.Outcome State Fault Refusal :=
  match a with
  | .reset => .refused .resetWhileRunning
  | _ => .next s

/-- A reserved code was written to `CMD`: no operation starts (R86, R266). -/
def illegalCommand (s : State) : State := endOp .illegalCommand s

/-- One step of the operation in progress (R150, R220, log 9). -/
def advance (P : Params) (r : Running) (s : State) : State :=
  match r with
  | .receive => receiveStep P s
  | .transmit wake => transmitStep wake s

/-- What happens in a step. -/
inductive Turn where
  /-- the operation in progress takes a step -/
  | advance (r : Running)
  /-- the host acts although an operation is in progress -/
  | hostBusy (a : HostOp) (rest : List HostAct)
  /-- the command in `CMD` starts -/
  | start (code : Byte)
  /-- the host acts -/
  | hostIdle (a : HostOp) (rest : List HostAct)
  /-- nobody acts -/
  | quiet
deriving DecidableEq, Repr

/-- Whose turn it is (R36, R56, R301, log 6). -/
def turn (s : State) : Turn :=
  match s.running with
  | some r =>
    match s.host with
    | a :: rest => if a.patient then .advance r else .hostBusy a.op rest
    | [] => .advance r
  | none =>
    match s.cmd with
    | some code => .start code
    | none =>
      match s.host with
      | a :: rest => .hostIdle a.op rest
      | [] => .quiet

end Sys2Proof.Machine
end

