-- ==== Sys2Proof/Machine/Step.lean ====
section
/-! DEFINITION. One step of the machine (spec 00_scope.md R10, 10_state.md R36, 45_receiver_fsm.md R220). -/

namespace Sys2Proof.Machine

/-- The command in `CMD` starts (R36, R86): the operation it names runs, a reserved code is refused. -/
def startCommand (code : Byte) (s : State) : Host.Outcome State Fault Refusal :=
  match decode code with
  | .ok i => exec i s
  | .error _ => goOn (illegalCommand s)

/-- One step: an operation in progress goes on, or the command in `CMD` starts, or the host acts, or
nothing happens. -/
def step (s : State) : Host.Outcome State Fault Refusal :=
  match turn s with
  | .advance r => goOn (advance Config.params r s)
  | .hostBusy a rest => hostActionBusy a { s with host := rest }
  | .start code => startCommand code { s with cmd := none }
  | .hostIdle a rest => goOn (hostAction a { s with host := rest })
  | .quiet => goOn s

/-- `s` with a command stored in `CMD`, where the next step fetches it. No operation may be in progress
for a command to start, so none is (log 6). -/
def State.withFetchWord (s : State) (nbits w : Nat) : State :=
  { s with cmd := some (tableWord nbits w), running := none }

end Sys2Proof.Machine
end

