-- ==== Sys2Proof/Safety.lean ====
section
/-! DEFINITION. What a safe run keeps: the invariant of the block, and the transitions the receive
machine may take (spec 10_state.md R25, R29, R30, R36, 20_memory.md R51, R58, 45_receiver_fsm.md R230, R232). -/

namespace Sys2Proof.Machine

/-- The receive states in which the capture device is held: codes 1 to 4 (R30, R230). -/
def RxState.active : RxState → Bool
  | .idle => false
  | .awaitStart => true
  | .recording => true
  | .demodulating => true
  | .validating => true
  | .success => false
  | .failed => false

/-- What holds of the block in every state a run reaches. -/
structure State.Inv (s : State) : Prop where
  /-- the reference tables hold the contents of R190 (R25, R44) -/
  rom_fixed : s.rom = refTables Config.params.num
  /-- `capOpen` = 1 exactly in the states with codes 1 to 4 (R30, R230) -/
  capture_held : s.capOpen = s.rxState.active
  /-- a `RECEIVE` is in progress exactly while the device is held (R220, R230) -/
  receive_runs : s.running = some .receive ↔ s.capOpen = true
  /-- the device has been released as often as it was acquired, but for the session in progress (R230) -/
  releases_match : s.env.capOpens = s.env.capCloses + s.capOpen.toNat
  /-- samples are left to skip only in `AWAIT_START_PREAMBLE` (R29, R224) -/
  skip_only_waiting : s.capOpen = true → s.skipLeft ≠ 0 → s.rxState = .awaitStart
  /-- `done` = 0 while `busy` = 1 (R268) -/
  busy_not_done : s.running ≠ none → s.done = false
  /-- `ERR` is 0 when `ok` = 1 (R36) -/
  ok_no_error : s.ok = true → s.err = .none
  /-- when an operation has ended, `ok` says whether it ended without error (R268) -/
  done_ok : s.done = true → s.ok = decide (s.err = .none)
  /-- no sample the block has built is −32768 (R51, R146) -/
  pcm_range : ∀ x ∈ s.pcm, -32767 ≤ x.toInt
  /-- the recording is within the implementation's capacity, where it has one (R58) -/
  rec_bounded : ∀ cap, Config.params.recCapacity = some cap → s.recBuf.length ≤ cap
  /-- the clock has shown no negative time (R13) -/
  now_nonneg : 0 ≤ s.env.now
  /-- the deadline is not negative (R28) -/
  deadline_nonneg : 0 ≤ s.deadline

/-- The transitions of `rxState` that a step of a running `RECEIVE` may take, each with the value of `ERR`
after it: the rows of R232 below the first two. A step that ends nothing leaves `ERR` as it was (`e`). -/
inductive RxTransition (e : ErrCode) : RxState → RxState → ErrCode → Prop where
  | awaitStay : RxTransition e .awaitStart .awaitStart e
  | awaitTimeout : RxTransition e .awaitStart .failed .timeout
  | awaitDevice : RxTransition e .awaitStart .failed .deviceError
  | awaitDone : RxTransition e .awaitStart .recording e
  | recordStay : RxTransition e .recording .recording e
  | recordTimeout : RxTransition e .recording .failed .timeout
  | recordDevice : RxTransition e .recording .failed .deviceError
  | recordDone : RxTransition e .recording .demodulating e
  | tooFewBits : RxTransition e .demodulating .failed .insufficientBits
  | demodulated : RxTransition e .demodulating .validating e
  | decodeBits : RxTransition e .validating .failed .insufficientBits
  | decodeLength : RxTransition e .validating .failed .invalidLength
  | decodeCrc : RxTransition e .validating .failed .crcMismatch
  | decoded : RxTransition e .validating .success .none

/-- The host says nothing, or waits: a running operation takes the next step (R56). -/
def State.hostWaits (s : State) : Bool :=
  match s.host with
  | [] => true
  | a :: _ => a.patient

end Sys2Proof.Machine
end

