-- ==== Sys2Proof/Certificates/Slice0/Obligations.lean ====
section
/-! DEFINITION. The statements about the model, for the provers. Each says which rule of the spec it
formalises; `Rules` holds the few functions the statements need, written from the rules and not from
the meanings. -/

open Sys2Proof Sys2Proof.Machine

namespace Sys2Proof.Rules

/-! ## What the statements are written with -/

/-- `s` after an operation that ended without error (R268). -/
def endsOk (s : State) : State :=
  { s with running := none, done := true, ok := true, err := .none }

/-- `s` after an operation that ended with the error outcome `e` (R268). -/
def endsIn (e : ErrCode) (s : State) : State :=
  { s with running := none, done := true, ok := false, err := e }

/-- One bit absorbed: `CrcBit` of R103, form C. -/
def crcBit (crc : U16) (d : Bit) : U16 :=
  if xor (crc.getLsbD 15) d then (crc <<< 1) ^^^ 0x1021#16 else crc <<< 1

/-- The bits of a byte list: bit `8j + i` is bit `7 − i` of byte `j` (R53, R120). -/
def bitsOf (bytes : List Byte) : List Bit :=
  bytes.flatMap fun b => (List.range 8).map fun i => b.getLsbD (7 - i)

/-- The CRC of a bit sequence, bit by bit (R103, form C). -/
def crcOfBits (bits : List Bit) : U16 := bits.foldl crcBit 0xFFFF#16

/-- The unsigned integer a bit sequence spells, most significant bit first (R121). -/
def numberOf (bits : List Bit) : Nat := bits.foldl (fun n b => 2 * n + b.toNat) 0

/-- The two bytes of a 16-bit field, big-endian (R52). -/
def twoBytes (v : Nat) : List Byte := [BitVec.ofNat 8 (v / 256), BitVec.ofNat 8 (v % 256)]

/-- One command with the values of `OPA` and `OPB` written before it (R88). -/
def command (k : Instr × U32 × U32) (s : State) : Option State :=
  match exec k.1 { s with opa := k.2.1, opb := k.2.2 } with
  | .next t => some t
  | _ => none

/-- A script of commands (R88). -/
def script : List (Instr × U32 × U32) → State → Option State
  | [], s => some s
  | k :: ks, s => (command k s).bind (script ks)

/-- Sample `i` of a list; beyond its end 0, which no rule reads. -/
def sampleAt (r : List Sample) (i : Nat) : Sample := r.getD i 0#16

/-- A correlation of the symbol window at `d` with a reference table (R191, R192). -/
def correlation (K : NumOps) (r : List Sample) (d : Nat) (ref : List NumVal) : NumVal :=
  (List.range 1764).foldl (fun acc i =>
    K.plus acc (K.times (K.quot (K.num (sampleAt r (d + i)).toInt) (K.num 32768))
      (ref.getD i .zero))) .zero

/-- `energy0` of the window at `d` (R192). -/
def energy0 (s : State) (d : Nat) : NumVal :=
  let K := Config.params.num
  let cs := correlation K s.recBuf d s.rom.sin0
  let cc := correlation K s.recBuf d s.rom.cos0
  K.root (K.plus (K.times cs cs) (K.times cc cc))

/-- `energy1` of the window at `d` (R192). -/
def energy1 (s : State) (d : Nat) : NumVal :=
  let K := Config.params.num
  let cs := correlation K s.recBuf d s.rom.sin1
  let cc := correlation K s.recBuf d s.rom.cos1
  K.root (K.plus (K.times cs cs) (K.times cc cc))

/-- `max(energy0, energy1)` of the window at `d` (R196). -/
def peak (s : State) (d : Nat) : NumVal :=
  if (energy1 s d).gt (energy0 s d) then energy1 s d else energy0 s d

/-- `d` is a candidate offset of the search (R196). -/
def candidate (s : State) (d : Nat) : Prop :=
  d % 4 = 0 ∧ d + 1764 ≤ s.recBuf.length ∧ d ≤ 1764

/-- A `RECEIVE` is in progress in state `x`, with the device held, and the host lets it go on. -/
def receiving (x : RxState) (s : State) : Prop :=
  s.running = some .receive ∧ s.rxState = x ∧ s.capOpen = true ∧ s.hostWaits = true

/-- `s` after `Fail(e)`, the environment having become `env` (R229, R268). -/
def failed (e : ErrCode) (env : Env) (s : State) : State :=
  endsIn e { s with
    diagState := s.rxState, msg := [], capOpen := false, rxState := .failed
    env := { env with capCloses := env.capCloses + 1 } }

/-- The code of a receive state (R27). -/
def rxCode : RxState → BitVec 3
  | .idle => 0#3
  | .awaitStart => 1#3
  | .recording => 2#3
  | .demodulating => 3#3
  | .validating => 4#3
  | .success => 5#3
  | .failed => 6#3

/-- The code of an error outcome (R260). -/
def errCode : ErrCode → Byte
  | .none => 0#8
  | .timeout => 1#8
  | .insufficientBits => 2#8
  | .invalidLength => 3#8
  | .crcMismatch => 4#8
  | .deviceError => 5#8
  | .illegalCommand => 6#8
  | .operandRange => 7#8

/-- The operations that end within the step that starts them (R56). -/
def atomic (i : Instr) : Prop := i ≠ .transmit ∧ i ≠ .receive

/-- The environment after one answer of `PlayWrite`, apart from the clock and the log of bursts. -/
def sameCapture (e f : Env) : Prop :=
  f.opens = e.opens ∧ f.reads = e.reads ∧ f.capture = e.capture ∧ f.capPos = e.capPos ∧
  f.capOpens = e.capOpens ∧ f.capCloses = e.capCloses

end Sys2Proof.Rules

open Sys2Proof.Rules

/-! ## The command word (30_encoding.md R84 to R87) -/

/-- Decoding the code of an operation gives the operation (R84, R85). -/
def Obligations.DecodeEncodeAgree : Prop :=
  ∀ i : Instr, i.wellFormed = true → decode (encode i) = .ok i

/-- R86: the decoder is total, answers an operation for exactly the well-formed codes, then for that
operation's own code, and refuses every other code by name. -/
def Obligations.DecodeRefusesReservedCodes : Prop :=
  ∀ c : Byte,
    (commandWellFormed c = true → ∃ i, decode c = .ok i ∧ encode i = c) ∧
    (commandWellFormed c = false → decode c = .error (.reservedCode c))

/-- R85: the code of every row of the operation map. -/
def Obligations.CommandWordsOfTheMap : Prop :=
  decode 0x10#8 = .ok .crcInit ∧ decode 0x11#8 = .ok .crcByte ∧ decode 0x12#8 = .ok .crcRead ∧
  decode 0x13#8 = .ok .crcBlock ∧
  decode 0x20#8 = .ok .frameEncode ∧ decode 0x21#8 = .ok .frameDecode ∧
  decode 0x30#8 = .ok .modReset ∧ decode 0x31#8 = .ok .tone ∧ decode 0x32#8 = .ok .modBits ∧
  decode 0x33#8 = .ok .buildFrame ∧ decode 0x34#8 = .ok .encodeMessage ∧ decode 0x35#8 = .ok .transmit ∧
  decode 0x40#8 = .ok .goertzelPower ∧ decode 0x41#8 = .ok .toneDetect ∧
  decode 0x50#8 = .ok .symEnergy ∧ decode 0x51#8 = .ok .offsetSearch ∧ decode 0x52#8 = .ok .bitExtract ∧
  decode 0x53#8 = .ok .demodulate ∧
  decode 0x60#8 = .ok .receive

/-- A step runs the decoded operation: with no operation in progress and the code of `i` in `CMD`, the
step is `exec i` at the state whose `CMD` has been taken (R36, R84). -/
def Obligations.StepRunsDecodedCommand : Prop :=
  ∀ (i : Instr) (c : Byte) (s : State), s.running = none → s.cmd = some c → decode c = .ok i →
    step s = exec i { s with cmd := none }

/-- R86: each of the 237 reserved codes is refused by the decoder by name, starts no operation and changes
nothing but `STATUS` and `ERR`. -/
def Obligations.ReservedCommandChangesOnlyStatus : Prop :=
  ((List.range 256).filter fun n => !commandWellFormed (BitVec.ofNat 8 n)).length = 237 ∧
  ∀ c : Byte, commandWellFormed c = false → decode c = .error (.reservedCode c) ∧
    ∀ s : State, s.running = none → s.cmd = some c →
      step s = .next (endsIn .illegalCommand { s with cmd := none })

/-! ## The host (10_state.md R36, 70_reset_and_hazards.md R290) -/

/-- R36: the host's writes while no operation is in progress. A buffer write replaces content and length.
That a write of `CMD` holds the code, whose operation the next step starts, is the model's choice (log 18).
`REC_CAPACITY`, where it is finite, bounds `REC_LEN` (R58): a write of `REC` that it can hold is stored
whole, and of a longer one nothing is said but the bound and that no other register changes, the model's
choice (log 23). -/
def Obligations.HostWritesTakeEffectWhenIdle : Prop :=
  ∀ (s : State) (p : Bool) (rest : List HostAct), s.running = none → s.cmd = none →
    (∀ c, s.host = ⟨p, .writeCmd c⟩ :: rest → step s = .next { s with host := rest, cmd := some c }) ∧
    (∀ v, s.host = ⟨p, .writeOpa v⟩ :: rest → step s = .next { s with host := rest, opa := v }) ∧
    (∀ v, s.host = ⟨p, .writeOpb v⟩ :: rest → step s = .next { s with host := rest, opb := v }) ∧
    (∀ v, s.host = ⟨p, .writeOpc v⟩ :: rest → step s = .next { s with host := rest, opc := v }) ∧
    (∀ v, s.host = ⟨p, .writeTimeout v⟩ :: rest → step s = .next { s with host := rest, timeoutS := v }) ∧
    (∀ v, s.host = ⟨p, .writeMsg v⟩ :: rest → step s = .next { s with host := rest, msg := v }) ∧
    (∀ v, s.host = ⟨p, .writeBits v⟩ :: rest → step s = .next { s with host := rest, bits := v }) ∧
    (∀ v, s.host = ⟨p, .writeRec v⟩ :: rest →
      ((∀ cap, Config.params.recCapacity = some cap → v.length ≤ cap) →
        step s = .next { s with host := rest, recBuf := v }) ∧
      ∃ t, step s = .next t ∧
        (∀ cap, Config.params.recCapacity = some cap → t.recBuf.length ≤ cap) ∧
        t = { s with
          host := rest, recBuf := t.recBuf, env := { s.env with draws := t.env.draws } })

/-- The host's writes of the length registers: the buffer gets the written length and keeps its elements
below both lengths. Both are the model's choice (log 7), as is that the added elements hold free values, of
which nothing is said. `REC_CAPACITY`, where it is finite, bounds `REC_LEN` (R58): of a `REC_LEN` that it
cannot hold nothing is said but the bound and that no other register changes, the model's choice (log 23). -/
def Obligations.LengthWritesKeepTheElements : Prop :=
  ∀ (s : State) (p : Bool) (rest : List HostAct) (v : U32), s.running = none → s.cmd = none →
    (s.host = ⟨p, .writeMsgLen v⟩ :: rest → ∃ t, step s = .next t ∧ t.msg.length = v.toNat ∧
      (∀ i, i < v.toNat → i < s.msg.length → t.msg[i]? = s.msg[i]?) ∧
      t = { s with host := rest, msg := t.msg, env := { s.env with draws := t.env.draws } }) ∧
    (s.host = ⟨p, .writeBitsLen v⟩ :: rest → ∃ t, step s = .next t ∧ t.bits.length = v.toNat ∧
      (∀ i, i < v.toNat → i < s.bits.length → t.bits[i]? = s.bits[i]?) ∧
      t = { s with host := rest, bits := t.bits, env := { s.env with draws := t.env.draws } }) ∧
    (s.host = ⟨p, .writeRecLen v⟩ :: rest → ∃ t, step s = .next t ∧
      ((∀ cap, Config.params.recCapacity = some cap → v.toNat ≤ cap) → t.recBuf.length = v.toNat ∧
        ∀ i, i < v.toNat → i < s.recBuf.length → t.recBuf[i]? = s.recBuf[i]?) ∧
      (∀ cap, Config.params.recCapacity = some cap → t.recBuf.length ≤ cap) ∧
      t = { s with host := rest, recBuf := t.recBuf, env := { s.env with draws := t.env.draws } })

/-- A host write while `busy` = 1 has no effect: R36 of the buffers and their lengths, U12 of `CMD`, D32 in
general. That this covers the operand registers and `TIMEOUT_S`, and that the refused write is used up, is
the model's reading (log 19); the form of the host's actions is the model's (log 6). -/
def Obligations.HostWritesWhileBusyAreRefused : Prop :=
  ∀ (s : State) (a : HostAct) (rest : List HostAct), s.busy = true → s.host = a :: rest →
    a.patient = false → a.op ≠ .reset → step s = .next { s with host := rest }

/-- The event `Reset` (R290): idle, it gives the state after reset and leaves host and environment; while
an operation runs it is refused (U12, log 11). -/
def Obligations.ResetEventRestoresResetState : Prop :=
  ∀ (s : State) (a : HostAct) (rest : List HostAct), s.host = a :: rest → a.op = .reset →
    (s.running = none → s.cmd = none →
      step s = .next { State.reset with host := rest, env := s.env }) ∧
    (s.busy = true → a.patient = false → step s = .refused .resetWhileRunning)

/-- A step of this block always goes on, unless the host resets it while an operation runs (U12, log 11). -/
def Obligations.OnlyBusyResetStops : Prop :=
  ∀ s : State, (∃ t, step s = .next t) ∨
    (step s = .refused .resetWhileRunning ∧ s.busy = true ∧
      ∃ a rest, s.host = a :: rest ∧ a.op = .reset ∧ a.patient = false)

/-- R44: what the host reads after reset, and the reference tables' lengths (R25) and contents (R190). -/
def Obligations.ResetValuesOfTheBlock : Prop :=
  let s := State.reset
  let K := Config.params.num
  s.crc = 0xFFFF#16 ∧ s.phase = K.num 0 ∧ s.fbuf = [] ∧ s.rxState = .idle ∧ s.deadline = 0 ∧
  s.skipLeft = 0 ∧ s.capOpen = false ∧ s.msg = [] ∧ s.bits = [] ∧ s.pcm = [] ∧ s.recBuf = [] ∧
  readReg s 1 = some (.word 0#32) ∧ readReg s 2 = some (.word 0#32) ∧ readReg s 3 = some (.word 0#32) ∧
  readReg s 4 = some (.byte 0x00#8) ∧ readReg s 5 = some (.byte 0#8) ∧
  readReg s 6 = some (.word 30#32) ∧ readReg s 7 = some (.word 0#32) ∧
  readReg s 8 = some (.num (K.num 0)) ∧ readReg s 9 = some (.num (K.num 0)) ∧
  readReg s 10 = some (.word 0#32) ∧ readReg s 11 = some (.word 0#32) ∧
  readReg s 12 = some (.word 0#32) ∧ readReg s 13 = some (.word 0#32) ∧
  readDiag s = (0#3, 0#32, 0#16, 0#16) ∧
  s.rom.sin0.length = 1764 ∧ s.rom.cos0.length = 1764 ∧
  s.rom.sin1.length = 1764 ∧ s.rom.cos1.length = 1764 ∧
  ∀ i : Nat, i < 1764 →
    let a := fun f : Nat => K.quot (K.times (K.times (K.times (K.num 2) K.pi) (K.num f)) (K.num i)) (K.num 44100)
    s.rom.sin0[i]? = some (K.sine (a 2000)) ∧ s.rom.cos0[i]? = some (K.cosine (a 2000)) ∧
    s.rom.sin1[i]? = some (K.sine (a 3000)) ∧ s.rom.cos1[i]? = some (K.cosine (a 3000))

/-- R36: the fields of `STATUS`, bit by bit; `capOpen` and `rxState` mirror the registers (R268), the latter
by its code (R27). -/
def Obligations.StatusByteFields : Prop :=
  ∀ s : State, ∃ v : Byte, readReg s 4 = some (.byte v) ∧
    v.getLsbD 0 = s.running.isSome ∧ v.getLsbD 1 = s.done ∧ v.getLsbD 2 = s.ok ∧
    v.getLsbD 3 = s.capOpen ∧ v.extractLsb' 4 3 = rxCode s.rxState ∧ v.getLsbD 7 = false

/-! ## How an operation ends (60_exceptions.md R260, R266, R268) -/

/-- R266: on a reserved code, and when an operand check fails, nothing changes but `STATUS` and `ERR`. -/
def Obligations.OperandRangeChangesOnlyStatus : Prop :=
  ∀ s : State,
    (∀ c, s.running = none → s.cmd = some c → commandWellFormed c = false →
      step s = .next (endsIn .illegalCommand { s with cmd := none })) ∧
    (65535 < s.msg.length →
      exec .frameEncode s = .next (endsIn .operandRange s) ∧
      exec .encodeMessage s = .next (endsIn .operandRange s)) ∧
    (2 ^ 31 ≤ s.opa.toNat ∨ 3600000 < s.opb.toNat →
      exec .tone s = .next (endsIn .operandRange s)) ∧
    (s.opb.toNat = 0 ∨ s.recBuf.length < s.opa.toNat + s.opb.toNat ∨ 2 ^ 31 ≤ s.opc.toNat →
      exec .goertzelPower s = .next (endsIn .operandRange s) ∧
      exec .toneDetect s = .next (endsIn .operandRange s)) ∧
    (s.recBuf.length < s.opa.toNat + 1764 → exec .symEnergy s = .next (endsIn .operandRange s)) ∧
    (s.recBuf.length < s.opa.toNat → exec .bitExtract s = .next (endsIn .operandRange s))

/-- R260, R268: an operation that does not extend over time has ended in the state it leaves, `ok` says
whether `ERR` is 0, and `ERR` is one of the outcomes R260 lists for the operation. -/
def Obligations.AtomicOperationsEndInAListedOutcome : Prop :=
  ∀ (i : Instr) (s : State), atomic i →
    ∃ t, exec i s = .next t ∧ t.running = none ∧ t.done = true ∧ (t.ok = true ↔ t.err = .none) ∧
      (t.err = .none ∨
        (t.err = .operandRange ∧ i ∈ [Instr.frameEncode, .encodeMessage, .tone, .goertzelPower,
          .toneDetect, .symEnergy, .bitExtract]) ∨
        (i = .frameDecode ∧ t.err ∈ [ErrCode.insufficientBits, .invalidLength, .crcMismatch]))

/-- The whole-machine frame (R21, R22, R25, R50), in two parts, because `RECEIVE` and `TRANSMIT` extend over
several steps (log 9). First, the starting step of every operation, which for every other operation is all
of it: an operation not named for a register or buffer leaves it unchanged there. Second, a step of a
`RECEIVE` or `TRANSMIT` in progress: what a running `RECEIVE` writes, and in which of its states, and that
nothing else is written. No operation writes the operand registers, `TIMEOUT_S` or the reference tables. -/
def Obligations.OnlyListedOperationsWrite : Prop :=
  (∀ (i : Instr) (s t : State), exec i s = .next t →
    (t.crc ≠ s.crc → i ∈ [Instr.crcInit, .crcByte, .crcBlock, .frameEncode, .frameDecode, .encodeMessage]) ∧
    (t.phase ≠ s.phase → i ∈ [Instr.modReset, .tone, .modBits, .buildFrame, .encodeMessage]) ∧
    (t.fbuf ≠ s.fbuf → i ∈ [Instr.modReset, .tone, .modBits, .buildFrame, .encodeMessage]) ∧
    (t.msg ≠ s.msg → i ∈ [Instr.frameDecode, .receive]) ∧
    (t.bits ≠ s.bits → i ∈ [Instr.frameEncode, .encodeMessage, .bitExtract, .demodulate, .receive]) ∧
    (t.pcm ≠ s.pcm → i ∈ [Instr.buildFrame, .encodeMessage]) ∧
    (t.recBuf ≠ s.recBuf → i = .receive) ∧
    (t.resI ≠ s.resI → i ∈ [Instr.crcRead, .crcBlock, .toneDetect, .symEnergy, .offsetSearch, .demodulate]) ∧
    (t.resN0 ≠ s.resN0 → i ∈ [Instr.goertzelPower, .toneDetect, .symEnergy, .offsetSearch, .demodulate]) ∧
    (t.resN1 ≠ s.resN1 → i = .symEnergy) ∧
    (t.rxState ≠ s.rxState ∨ t.deadline ≠ s.deadline ∨ t.skipLeft ≠ s.skipLeft ∨ t.capOpen ≠ s.capOpen →
      i = .receive) ∧
    (t.diagState ≠ s.diagState ∨ t.diagNBits ≠ s.diagNBits ∨ t.diagCrcRx ≠ s.diagCrcRx ∨
      t.diagCrcCalc ≠ s.diagCrcCalc → i ∈ [Instr.frameDecode, .receive]) ∧
    (t.env ≠ s.env → i ∈ [Instr.transmit, .receive]) ∧
    t.rom = s.rom ∧ t.opa = s.opa ∧ t.opb = s.opb ∧ t.opc = s.opc ∧ t.timeoutS = s.timeoutS ∧
    t.cmd = s.cmd ∧ t.host = s.host) ∧
  ∀ (r : Running) (s t : State), s.running = some r → step s = .next t →
    (t.crc ≠ s.crc ∨ t.diagCrcRx ≠ s.diagCrcRx ∨ t.diagCrcCalc ≠ s.diagCrcCalc →
      r = .receive ∧ s.rxState = .validating) ∧
    (t.bits ≠ s.bits ∨ t.resI ≠ s.resI ∨ t.resN0 ≠ s.resN0 → r = .receive ∧ s.rxState = .demodulating) ∧
    (t.diagNBits ≠ s.diagNBits →
      r = .receive ∧ (s.rxState = .demodulating ∨ s.rxState = .validating)) ∧
    (t.recBuf ≠ s.recBuf → r = .receive ∧ s.rxState = .recording) ∧
    (t.skipLeft ≠ s.skipLeft → r = .receive ∧ s.rxState = .awaitStart) ∧
    (t.msg ≠ s.msg ∨ t.rxState ≠ s.rxState ∨ t.capOpen ≠ s.capOpen ∨ t.diagState ≠ s.diagState →
      r = .receive) ∧
    t.phase = s.phase ∧ t.fbuf = s.fbuf ∧ t.pcm = s.pcm ∧ t.resN1 = s.resN1 ∧ t.deadline = s.deadline ∧
    t.rom = s.rom ∧ t.opa = s.opa ∧ t.opb = s.opb ∧ t.opc = s.opc ∧ t.timeoutS = s.timeoutS ∧
    t.cmd = s.cmd ∧ (t.host = s.host ∨ ∃ a, s.host = a :: t.host)

/-! ## The CRC generator (40_crc.md) -/

/-- R101, R104: `CRC_INIT` sets the register, `CRC_READ` copies it; nothing else changes but `STATUS` and
`ERR`. -/
def Obligations.CrcInitAndRead : Prop :=
  ∀ s : State,
    exec .crcInit s = .next (endsOk { s with crc := 0xFFFF#16 }) ∧
    exec .crcRead s = .next (endsOk { s with resI := BitVec.ofNat 32 s.crc.toNat })

/-- The spec's inference R103 (form C): `CRC_BYTE` absorbs `OPA[7:0]` as eight steps of `CrcBit`, bit 7
first. -/
def Obligations.CrcByteIsBitSerial : Prop :=
  ∀ s : State,
    exec .crcByte s = .next (endsOk { s with
      crc := (bitsOf [BitVec.ofNat 8 (s.opa.toNat % 256)]).foldl crcBit s.crc })

/-- R106, with the spec's inference R103 (form C): `CRC_BLOCK` gives the CRC of `MSG`, which is `CrcBit`
applied to its bits in order. -/
def Obligations.CrcBlockIsBitSerial : Prop :=
  ∀ s : State,
    exec .crcBlock s = .next (endsOk { s with
      crc := crcOfBits (bitsOf s.msg), resI := BitVec.ofNat 32 (crcOfBits (bitsOf s.msg)).toNat })

/-- The spec's inference R107 (a): a byte list followed by its own CRC leaves the register at 0. -/
def Obligations.CrcResidueIsZero : Prop :=
  ∀ bytes : List Byte,
    crc16 (bytes ++ twoBytes (crc16 bytes).toNat) = 0x0000#16

/-- The spec's inference R107 (b): two byte lists that differ in exactly one bit have different CRCs. -/
def Obligations.CrcCatchesEverySingleBitError : Prop :=
  ∀ (front back : List Byte) (b : Byte) (k : Nat), k < 8 →
    crc16 (front ++ (b ^^^ BitVec.ofNat 8 (2 ^ k)) :: back) ≠ crc16 (front ++ b :: back)

/-! ## The frame codec (41_frame_codec.md) -/

/-- R70, R74, R123: the frame `FRAME_ENCODE` writes into `BITS`, bit by bit, what it leaves unchanged, and
the message it refuses. -/
def Obligations.FrameEncodeWritesTheFrame : Prop :=
  ∀ s : State,
    (65535 < s.msg.length → exec .frameEncode s = .next (endsIn .operandRange s)) ∧
    (s.msg.length ≤ 65535 → ∃ t, exec .frameEncode s = .next t ∧
      t.bits = bitsOf (twoBytes s.msg.length ++ s.msg ++ twoBytes t.crc.toNat) ∧
      t.bits.length = 8 * (s.msg.length + 4) ∧
      t.crc = crcOfBits (bitsOf (twoBytes s.msg.length ++ s.msg)) ∧
      t = endsOk { s with bits := t.bits, crc := t.crc })

/-- R124, R125, R127: the outcome of `FRAME_DECODE` in the order of its tests, as the host issues it. That
`DIAG_STATE` keeps its value on success is the model's reading of R37 (log 15). -/
def Obligations.FrameDecodeOutcomes : Prop :=
  ∀ s : State,
    let b := s.bits.length
    let n := numberOf (s.bits.take 16)
    let calc' := crcOfBits (s.bits.take (16 + 8 * n))
    let rx := numberOf ((s.bits.drop (16 + 8 * n)).take 16)
    let lost := { s with diagNBits := b, msg := [], diagState := .idle }
    let seen := { s with
      diagNBits := b, crc := calc', diagCrcCalc := calc', diagCrcRx := BitVec.ofNat 16 rx }
    (b < 32 → exec .frameDecode s = .next (endsIn .insufficientBits lost)) ∧
    (32 ≤ b → n = 0 ∨ 8192 < n → exec .frameDecode s = .next (endsIn .invalidLength lost)) ∧
    (32 ≤ b → 1 ≤ n → n ≤ 8192 → b < 16 + 8 * n + 16 →
      exec .frameDecode s = .next (endsIn .insufficientBits lost)) ∧
    (1 ≤ n → n ≤ 8192 → 16 + 8 * n + 16 ≤ b → calc'.toNat ≠ rx →
      exec .frameDecode s =
        .next (endsIn .crcMismatch { seen with msg := [], diagState := .idle })) ∧
    (1 ≤ n → n ≤ 8192 → 16 + 8 * n + 16 ≤ b → calc'.toNat = rx →
      ∃ m : List Byte, bitsOf m = (s.bits.drop 16).take (8 * n) ∧ m.length = n ∧
        exec .frameDecode s = .next (endsOk { seen with msg := m }))

/-- The spec's inference R128: `FRAME_DECODE` gives back every message of 1 to 8192 bytes that
`FRAME_ENCODE` encoded, whatever bits follow the frame; on 0 bytes and on 8193 to 65535 bytes `FRAME_ENCODE`
succeeds and `FRAME_DECODE` rejects its output with `InvalidLength`. -/
def Obligations.FrameCodecRoundTrip : Prop :=
  ∀ s : State,
    (1 ≤ s.msg.length → s.msg.length ≤ 8192 → ∀ extra : List Bit,
      ∃ t u, exec .frameEncode s = .next t ∧
        exec .frameDecode { t with bits := t.bits ++ extra } = .next u ∧
        u.msg = s.msg ∧ u.ok = true ∧ u.err = .none) ∧
    (s.msg.length = 0 ∨ 8193 ≤ s.msg.length ∧ s.msg.length ≤ 65535 →
      ∃ t u, exec .frameEncode s = .next t ∧ t.ok = true ∧ exec .frameDecode t = .next u ∧
        u.err = .invalidLength ∧ u.ok = false ∧ u.msg = [])

/-- The spec's inference R129: the outcome of decoding an encoded frame with exactly one bit flipped, by
where the bit is. -/
def Obligations.SingleBitFlipOutcomes : Prop :=
  ∀ (s : State) (p : Nat), 1 ≤ s.msg.length → s.msg.length ≤ 8192 →
    p < 8 * (s.msg.length + 4) →
    let n' := s.msg.length ^^^ 2 ^ (15 - p)
    ∃ t u, exec .frameEncode s = .next t ∧
      exec .frameDecode { t with bits := t.bits.set p (!t.bits.getD p false) } = .next u ∧
      (16 ≤ p → u.err = .crcMismatch ∧ u.msg = []) ∧
      (p < 16 → n' = 0 ∨ 8192 < n' → u.err = .invalidLength ∧ u.msg = []) ∧
      (p < 16 → s.msg.length < n' → n' ≤ 8192 → u.err = .insufficientBits ∧ u.msg = []) ∧
      (p < 16 → 0 < n' → n' < s.msg.length → u.err = .none ∨ u.err = .crcMismatch ∧ u.msg = [])

/-! ## The numeric structure (46_numerics.md) -/

/-- R254: what every instance of `NUM` satisfies, for the implementation's `NUM` (in the form of logs 1 and
2). -/
def Obligations.NumericLawsHold : Prop :=
  let K := Config.params.num
  (∀ a b : Int, a.natAbs < 2 ^ 31 → b.natAbs < 2 ^ 31 →
    ((K.num a).gt (K.num b) = true ↔ b < a) ∧ (K.num a = K.num b ↔ a = b)) ∧
  (∀ a : Int, a.natAbs < 2 ^ 31 → (K.num a).trunc = a) ∧
  (∀ x, K.plus x (K.num 0) = x ∧ K.plus (K.num 0) x = x ∧ K.times x (K.num 0) = K.num 0) ∧
  K.sine (K.num 0) = K.num 0 ∧
  (∀ x : NumVal, x.gt x = false) ∧
  (∀ x y z : NumVal, x.gt y = true → y.gt z = true → x.gt z = true)

/-- R146: `Quantise` scales, clamps to [−32767, 32767] and rounds toward zero. -/
def Obligations.QuantiserClampsThenTruncates : Prop :=
  ∀ (K : NumOps) (v : NumVal),
    let y := K.times v (K.num 32767)
    (quantise K v).toInt =
      if y.gt (K.num 32767) then 32767
      else if (K.num (-32767)).gt y then -32767
      else y.trunc

/-! ## The modulator (42_fsk_modulator.md) -/

/-- R142: `MOD_RESET` sets `phase` to `num(0)` and empties `FBUF`; nothing else changes. -/
def Obligations.ModResetClearsPhaseAndBuffer : Prop :=
  ∀ s : State, exec .modReset s = .next (endsOk { s with phase := Config.params.num.num 0, fbuf := [] })

/-- R141, R143: what `TONE` appends, how it advances the phase, and the operands it refuses. -/
def Obligations.ToneAppendsItsSamples : Prop :=
  ∀ s : State,
    (2 ^ 31 ≤ s.opa.toNat ∨ 3600000 < s.opb.toNat →
      exec .tone s = .next (endsIn .operandRange s)) ∧
    (s.opa.toNat < 2 ^ 31 → s.opb.toNat ≤ 3600000 →
    let K := Config.params.num
    let n := s.opb.toNat * 44100 / 1000
    let turn' := fun i : Nat => K.quot (K.times (K.times (K.times (K.num 2) K.pi) (K.num s.opa.toNat)) (K.num i)) (K.num 44100)
    ∃ t, exec .tone s = .next t ∧
      t = endsOk { s with fbuf := t.fbuf, phase := K.plus s.phase (turn' n) } ∧
      t.fbuf.length = s.fbuf.length + n ∧ s.fbuf <+: t.fbuf ∧
      ∀ i : Nat, i < n → t.fbuf[s.fbuf.length + i]? = some
        (if s.opa.toNat = 0 then K.num 0 else K.times (K.sine (K.plus s.phase (turn' i))) (K.num 2)))

/-- R143, R144: a `TONE` of zero duration appends nothing, a `TONE` of frequency 0 appends zeros, and
neither changes the phase. Rests on the laws of log 2. -/
def Obligations.SilenceAndZeroDurationKeepPhase : Prop :=
  ∀ s : State,
    (s.opa.toNat < 2 ^ 31 → s.opb.toNat = 0 → exec .tone s = .next (endsOk s)) ∧
    (s.opa.toNat = 0 → s.opb.toNat ≤ 3600000 → exec .tone s = .next (endsOk { s with
      fbuf := s.fbuf ++ List.replicate (s.opb.toNat * 44100 / 1000) (Config.params.num.num 0) }))

/-- R145: `MOD_BITS` is one `TONE` of 40 ms per bit, 2000 Hz for 0 and 3000 Hz for 1. -/
def Obligations.ModBitsIsATonePerBit : Prop :=
  ∀ s : State, ∃ t u, exec .modBits s = .next t ∧
    script (s.bits.map fun b => (.tone, if b then 3000#32 else 2000#32, 40#32)) s = some u ∧
    t = endsOk { s with fbuf := u.fbuf, phase := u.phase } ∧
    t.fbuf.length = s.fbuf.length + 1764 * s.bits.length

/-- R148: `BUILD_FRAME` is `MOD_RESET`, the start tone, the silence, `MOD_BITS`, the end tone, then the
quantiser on every value. -/
def Obligations.BuildFrameIsItsExpansion : Prop :=
  ∀ s : State, ∃ t u, exec .buildFrame s = .next t ∧
    script [(.modReset, 0#32, 0#32), (.tone, 4000#32, 250#32), (.tone, 0#32, 50#32),
      (.modBits, 0#32, 0#32), (.tone, 5000#32, 100#32)] s = some u ∧
    t = endsOk { s with
      fbuf := u.fbuf, phase := u.phase, pcm := u.fbuf.map (quantise Config.params.num) } ∧
    t.pcm.length = 17640 + 1764 * s.bits.length

/-- R51, R76, R257: the layout of a burst that holds for every `NUM`: its length, the first sample, the
silence, and the range of every sample. The first sample rests on the laws of log 2. -/
def Obligations.BurstLayoutForEveryNum : Prop :=
  ∀ s : State, ∃ t, exec .buildFrame s = .next t ∧
    t.pcm.length = 17640 + 1764 * s.bits.length ∧ t.pcm[0]? = some 0#16 ∧
    (∀ i : Nat, 11025 ≤ i → i < 13230 → t.pcm[i]? = some 0#16) ∧
    ∀ x ∈ t.pcm, -32767 ≤ x.toInt ∧ x.toInt ≤ 32767

/-- The spec's inference R152: `BUILD_FRAME` and `ENCODE_MESSAGE` read nothing an earlier operation could
have left but their input buffer. -/
def Obligations.BurstDependsOnInputAlone : Prop :=
  ∀ s s' : State,
    (s.bits = s'.bits → ∃ t t', exec .buildFrame s = .next t ∧ exec .buildFrame s' = .next t' ∧
      t.pcm = t'.pcm ∧ t.fbuf = t'.fbuf ∧ t.phase = t'.phase) ∧
    (s.msg = s'.msg → s.msg.length ≤ 65535 →
      ∃ t t', exec .encodeMessage s = .next t ∧ exec .encodeMessage s' = .next t' ∧
        t.pcm = t'.pcm ∧ t.bits = t'.bits ∧ t.crc = t'.crc ∧ t.fbuf = t'.fbuf ∧ t.phase = t'.phase)

/-- R149: `ENCODE_MESSAGE` is `FRAME_ENCODE` and then `BUILD_FRAME`, a second one changes nothing, and a
message with no encoding is refused. -/
def Obligations.EncodeMessageIsEncodeThenBuild : Prop :=
  ∀ s : State,
    (65535 < s.msg.length → exec .encodeMessage s = .next (endsIn .operandRange s)) ∧
    (s.msg.length ≤ 65535 → ∃ t u, exec .frameEncode s = .next t ∧
      exec .buildFrame t = .next u ∧ exec .encodeMessage s = .next u ∧
      exec .encodeMessage u = .next u)

/-- R150: `TRANSMIT` hands `PCM` to the playback device; on ok it is busy until the sleep of
`PCM_LEN / 44100 + TX_SLACK_MS / 1000` seconds returns, on `DeviceError` it ends without sleep. The model's
own: the sleep counts from the time read when `PlayWrite` returned (log 10), a refused burst is not recorded
as played (log 21), and `ok` and `ERR` keep their values while the operation runs (log 16). -/
def Obligations.TransmitPlaysThenSleeps : Prop :=
  ∀ s : State,
    let accepted := s.env.plays.headD (Config.freePlay s.env.draws)
    ∃ t, exec .transmit s = .next t ∧ sameCapture s.env t.env ∧ s.env.now ≤ t.env.now ∧
      (accepted = true → t.env.played = s.env.played ++ [s.pcm] ∧
        t = { s with
          running := some (.transmit (t.env.now +
            ((s.pcm.length : Rat) / 44100 + (Config.params.txSlackMs : Rat) / 1000)))
          done := false, env := t.env }) ∧
      (accepted = false → t.env.played = s.env.played ∧ t.env.now = s.env.now ∧
        t = endsIn .deviceError { s with env := t.env })

/-- R150, R294: a `TRANSMIT` in its sleep is held until the clock has reached the end of the sleep; nothing
but the clock changes before, and nothing is handed to the playback device again. R13 says only that a sleep lasts at least so long: that it ends exactly at the
first step whose look at the clock shows its end is the model's reading (log 10). -/
def Obligations.TransmitHoldsUntilTheSleepEnds : Prop :=
  ∀ (s : State) (wake : Rat), s.running = some (.transmit wake) → s.hostWaits = true →
    ∃ t, step s = .next t ∧ s.env.now ≤ t.env.now ∧ sameCapture s.env t.env ∧
      t.env.played = s.env.played ∧ t.env.plays = s.env.plays ∧
      t.env = { s.env with now := t.env.now, times := t.env.times, draws := t.env.draws } ∧
      (t.env.now < wake → t = { s with env := t.env }) ∧
      (wake ≤ t.env.now → t = endsOk { s with env := t.env })

/-! ## The Goertzel detector (43_goertzel.md) -/

/-- R171, R174: the recurrence of `GOERTZEL_POWER` on its window, its result, and the operands it refuses. -/
def Obligations.GoertzelPowerRecurrence : Prop :=
  ∀ s : State,
    let K := Config.params.num
    let n := s.opb.toNat
    let f := s.opc.toNat
    let k := (2 * n * f + 44100) / 88200
    let c := K.times (K.num 2) (K.cosine (K.quot (K.times (K.times (K.num 2) K.pi) (K.num k)) (K.num n)))
    (n = 0 ∨ s.recBuf.length < s.opa.toNat + n ∨ 2 ^ 31 ≤ f →
      exec .goertzelPower s = .next (endsIn .operandRange s)) ∧
    (n ≠ 0 → s.opa.toNat + n ≤ s.recBuf.length → f < 2 ^ 31 →
    ∃ s1 s2 : Nat → NumVal, s1 0 = K.num 0 ∧ s2 0 = K.num 0 ∧
      (∀ i, i < n →
        s1 (i + 1) = K.minus (K.plus (K.num (sampleAt s.recBuf (s.opa.toNat + i)).toInt)
          (K.times c (s1 i))) (s2 i) ∧
        s2 (i + 1) = s1 i) ∧
      exec .goertzelPower s = .next (endsOk { s with
        resN0 := K.minus (K.plus (K.times (s1 n) (s1 n)) (K.times (s2 n) (s2 n)))
          (K.times (K.times c (s1 n)) (s2 n)) }))

/-- R175: `TONE_DETECT` is `GOERTZEL_POWER` followed by the strict comparison with
`POWER_THRESHOLD`, a positive value (R8), and refuses the same operands. -/
def Obligations.ToneDetectComparesThePower : Prop :=
  (powerThreshold Config.params).gt .zero = true ∧
  ∀ s : State,
    (s.opb.toNat = 0 ∨ s.recBuf.length < s.opa.toNat + s.opb.toNat ∨ 2 ^ 31 ≤ s.opc.toNat →
      exec .toneDetect s = .next (endsIn .operandRange s)) ∧
    (s.opb.toNat ≠ 0 → s.opa.toNat + s.opb.toNat ≤ s.recBuf.length → s.opc.toNat < 2 ^ 31 →
      ∃ t, exec .goertzelPower s = .next t ∧ t.ok = true ∧
        exec .toneDetect s = .next { t with
          resI := if t.resN0.gt (powerThreshold Config.params) then 1#32 else 0#32 })

/-! ## The demodulator (44_demodulator.md) -/

/-- R191, R192, R195: the two energies and the bit of the window at `OPA`, and the window that is refused. -/
def Obligations.SymEnergyOfTheWindow : Prop :=
  ∀ s : State,
    (s.recBuf.length < s.opa.toNat + 1764 → exec .symEnergy s = .next (endsIn .operandRange s)) ∧
    (s.opa.toNat + 1764 ≤ s.recBuf.length →
      exec .symEnergy s = .next (endsOk { s with
        resN0 := energy0 s s.opa.toNat, resN1 := energy1 s s.opa.toNat
        resI := if (energy1 s s.opa.toNat).gt (energy0 s s.opa.toNat) then 1#32 else 0#32 }))

/-- R196: `OFFSET_SEARCH` gives the earliest candidate of the largest energy, and 0 with energy 0 when no
candidate's energy is above 0. That the earliest is found rests on `>` being a total order (log 1). -/
def Obligations.OffsetSearchFindsEarliestPeak : Prop :=
  ∀ s : State, ∃ (best : Nat) (e : NumVal),
    exec .offsetSearch s = .next (endsOk { s with resI := BitVec.ofNat 32 best, resN0 := e }) ∧
    (best = 0 ∧ e = Config.params.num.num 0 ∨
      candidate s best ∧ e = peak s best ∧ e.gt (Config.params.num.num 0) = true) ∧
    ∀ d, candidate s d → (peak s d).gt e = false ∧ (d < best → e.gt (peak s d) = true)

/-- R174, R195: an all-zero window has power `num(0)` at every frequency, and so is never a detection; an
all-zero symbol window gives energies (0, 0) and bit 0. Rests on the laws of log 2. -/
def Obligations.SilenceHasNoPowerAndNoEnergy : Prop :=
  ∀ s : State,
    (s.opb.toNat ≠ 0 → s.opa.toNat + s.opb.toNat ≤ s.recBuf.length → s.opc.toNat < 2 ^ 31 →
      (∀ i, i < s.opb.toNat → sampleAt s.recBuf (s.opa.toNat + i) = 0#16) →
      exec .goertzelPower s = .next (endsOk { s with resN0 := Config.params.num.num 0 }) ∧
      exec .toneDetect s =
        .next (endsOk { s with resN0 := Config.params.num.num 0, resI := 0#32 })) ∧
    (s.opa.toNat + 1764 ≤ s.recBuf.length →
      (∀ i, i < 1764 → sampleAt s.recBuf (s.opa.toNat + i) = 0#16) →
      exec .symEnergy s = .next (endsOk { s with
        resN0 := Config.params.num.num 0, resN1 := Config.params.num.num 0, resI := 0#32 }))

/-- R197: `BIT_EXTRACT` decodes each whole window from `OPA` on, equal energies giving 0; it refuses an
offset beyond the recording. -/
def Obligations.BitExtractDecodesEachWindow : Prop :=
  ∀ s : State,
    (s.recBuf.length < s.opa.toNat → exec .bitExtract s = .next (endsIn .operandRange s)) ∧
    (s.opa.toNat ≤ s.recBuf.length →
      ∃ t, exec .bitExtract s = .next t ∧ t = endsOk { s with bits := t.bits } ∧
        t.bits.length = (s.recBuf.length - s.opa.toNat) / 1764 ∧
        ∀ j, j < t.bits.length → t.bits[j]? = some
          ((energy1 s (s.opa.toNat + 1764 * j)).gt (energy0 s (s.opa.toNat + 1764 * j))))

/-- R198: `DEMODULATE` is `OFFSET_SEARCH` and then `BIT_EXTRACT` from `RES_I`, and raises nothing. -/
def Obligations.DemodulateIsSearchThenExtract : Prop :=
  ∀ s : State, ∃ t u, exec .offsetSearch s = .next t ∧
    exec .bitExtract { t with opa := t.resI } = .next u ∧ u.ok = true ∧
    exec .demodulate s = .next { u with opa := s.opa }

/-! ## The receive state machine (45_receiver_fsm.md) -/

/-- R221: the entry of `RECEIVE`, with both answers of `CapOpen`. That `ok` and `ERR` keep their values
while it runs is the model's reading of R268 (log 16). -/
def Obligations.ReceiveEntry : Prop :=
  ∀ s : State,
    let clock := readClock s
    let dev := openCapture clock.2
    let cleared := { s with
      msg := [], bits := [], recBuf := [], skipLeft := 0
      deadline := clock.1 + (s.timeoutS.toNat : Rat), env := dev.2.env }
    (dev.1 = true → exec .receive s = .next { cleared with
      capOpen := true, rxState := .awaitStart, running := some .receive, done := false }) ∧
    (dev.1 = false → exec .receive s = .next (endsIn .deviceError { cleared with
      diagState := .idle, rxState := .failed }))

/-- R261: a deadline that has passed before a read in `AWAIT_START_PREAMBLE`, listening or skipping, or in
`RECORDING_UNTIL_END_PREAMBLE` with nothing recorded, fails the receive with `Timeout`, without a read;
with something recorded it raises nothing. -/
def Obligations.DeadlineRaisesTimeout : Prop :=
  ∀ s : State, s.deadline ≤ (readClock s).1 →
    (receiving .awaitStart s → step s = .next (failed .timeout (readClock s).2.env s)) ∧
    (receiving .recording s → s.recBuf = [] →
      step s = .next (failed .timeout (readClock s).2.env s)) ∧
    (receiving .recording s → s.recBuf ≠ [] →
      step s = .next { s with env := (readClock s).2.env, rxState := .demodulating })

/-- R222: a listening step: the deadline has passed, or the read fails, or a full window above the
threshold starts the skip, or the window is discarded. -/
def Obligations.ListeningStep : Prop :=
  ∀ s : State, receiving .awaitStart s → s.skipLeft = 0 →
    let read := readCapture 5512 (readClock s).2
    (s.deadline ≤ (readClock s).1 → step s = .next (failed .timeout (readClock s).2.env s)) ∧
    ((readClock s).1 < s.deadline → read.1 = none →
      step s = .next (failed .deviceError read.2.env s)) ∧
    ∀ w, (readClock s).1 < s.deadline → read.1 = some w →
      (w.length = 5512 ∧
          (goertzelPower Config.params.num w 4000).gt (powerThreshold Config.params) = true →
        step s = .next { s with
          env := read.2.env, skipLeft := Config.params.startSkip
          rxState := if Config.params.startSkip = 0 then .recording else .awaitStart }) ∧
      (¬ (w.length = 5512 ∧
          (goertzelPower Config.params.num w 4000).gt (powerThreshold Config.params) = true) →
        step s = .next { s with env := read.2.env })

/-- R224: a skipping step: the deadline has passed, or the read fails, or the count goes down by what the
read returned. -/
def Obligations.SkippingStep : Prop :=
  ∀ s : State, receiving .awaitStart s → s.skipLeft ≠ 0 →
    let read := readCapture s.skipLeft (readClock s).2
    (s.deadline ≤ (readClock s).1 → step s = .next (failed .timeout (readClock s).2.env s)) ∧
    ((readClock s).1 < s.deadline → read.1 = none →
      step s = .next (failed .deviceError read.2.env s)) ∧
    ∀ w, (readClock s).1 < s.deadline → read.1 = some w → w.length ≤ s.skipLeft ∧
      step s = .next { s with
        env := read.2.env, skipLeft := s.skipLeft - w.length
        rxState := if w.length = s.skipLeft then .recording else .awaitStart }

/-- R225: a recording step. Past the deadline it fails if nothing was recorded and goes on otherwise; before
it, what was read is appended and a full window above the threshold ends the recording. A recording past
`REC_CAPACITY`, where an implementation has one, fails with `DeviceError` (log 3) and leaves `REC` as it was
before the read (log 22). -/
def Obligations.RecordingStep : Prop :=
  ∀ s : State, receiving .recording s →
    let clock := readClock s
    let read := readCapture 2205 clock.2
    (s.deadline ≤ clock.1 → s.recBuf.length = 0 → step s = .next (failed .timeout clock.2.env s)) ∧
    (s.deadline ≤ clock.1 → s.recBuf.length ≠ 0 →
      step s = .next { s with env := clock.2.env, rxState := .demodulating }) ∧
    (clock.1 < s.deadline → read.1 = none → step s = .next (failed .deviceError read.2.env s)) ∧
    ∀ w, clock.1 < s.deadline → read.1 = some w →
      ((∃ cap, Config.params.recCapacity = some cap ∧ cap < s.recBuf.length + w.length) →
        step s = .next (failed .deviceError read.2.env s)) ∧
      ((∀ cap, Config.params.recCapacity = some cap → s.recBuf.length + w.length ≤ cap) →
        step s = .next { s with
          env := read.2.env, recBuf := s.recBuf ++ w
          rxState := if w.length = 2205 ∧
              (goertzelPower Config.params.num w 5000).gt (powerThreshold Config.params) = true
            then .demodulating else .recording })

/-- R226: the demodulating step performs `DEMODULATE`, records the bit count, and fails on fewer than 32
bits. -/
def Obligations.DemodulatingStep : Prop :=
  ∀ s : State, receiving .demodulating s → ∃ t, exec .demodulate s = .next t ∧
    let u := { s with bits := t.bits, resI := t.resI, resN0 := t.resN0, diagNBits := t.bits.length }
    (t.bits.length < 32 → step s = .next (failed .insufficientBits s.env u)) ∧
    (32 ≤ t.bits.length → step s = .next { u with rxState := .validating })

/-- R227, R228: the validating step performs `FRAME_DECODE` and succeeds or fails with its outcome. That
`DIAG_STATE` keeps its value on success is the model's reading of R37 (log 15). -/
def Obligations.ValidatingStep : Prop :=
  ∀ s : State, receiving .validating s → ∃ t, exec .frameDecode s = .next t ∧
    let u := { s with
      msg := t.msg, crc := t.crc, diagNBits := t.diagNBits
      diagCrcRx := t.diagCrcRx, diagCrcCalc := t.diagCrcCalc }
    (t.err = .none → step s = .next (endsOk { u with
      capOpen := false, rxState := .success
      env := { s.env with capCloses := s.env.capCloses + 1 } })) ∧
    (t.err ≠ .none → step s = .next (failed t.err s.env u))

/-- R221: with `TIMEOUT_S` = 0 the first step of a receive fails with `Timeout` and no sample is read. -/
def Obligations.ZeroTimeoutFailsWithoutARead : Prop :=
  ∀ s t : State, s.timeoutS = 0#32 → s.hostWaits = true → exec .receive s = .next t →
    t.running = some .receive →
    ∃ u, step t = .next u ∧ u.err = .timeout ∧ u.rxState = .failed ∧ u.running = none ∧
      u.env.capPos = s.env.capPos ∧ u.env.reads = s.env.reads

/-- R232: in a state that meets the invariant, a step of a running `RECEIVE` takes one of the listed
transitions, with the listed error code. -/
def Obligations.ReceiveTransitionsOnlyAsListed : Prop :=
  ∀ s t : State, s.Inv → s.running = some .receive → s.hostWaits = true → step s = .next t →
    RxTransition s.err s.rxState t.rxState t.err

/-- R27: `rxState` is written only by `RECEIVE`, and set to `IDLE` by `Reset`. -/
def Obligations.RxStateWrittenOnlyByReceive : Prop :=
  ∀ s t : State, step s = .next t → t.rxState ≠ s.rxState →
    s.running = some .receive ∨
    (s.running = none ∧ s.cmd = some 0x60#8 ∧ (t.rxState = .awaitStart ∨ t.rxState = .failed)) ∨
    (s.running = none ∧ t.rxState = .idle ∧ ∃ a rest, s.host = a :: rest ∧ a.op = .reset)

/-- R229: a receive ends either in `SUCCESS` with a message of a valid length, or in `FAILED` with no
message and an error code; the device is released. -/
def Obligations.ReceiveEndsWithMessageOrNothing : Prop :=
  ∀ s t : State, s.Inv → s.running = some .receive → step s = .next t → t.running = none →
    t.done = true ∧ t.capOpen = false ∧ t.env.capCloses = s.env.capCloses + 1 ∧
    ((t.rxState = .success ∧ t.ok = true ∧ t.err = .none ∧ 1 ≤ t.msg.length ∧ t.msg.length ≤ 8192) ∨
     (t.rxState = .failed ∧ t.ok = false ∧ t.err ≠ .none ∧ t.msg = [] ∧ t.diagState = s.rxState))

/-- The spec's inference R233: once the clock has reached the deadline, a listening, skipping or recording
`RECEIVE` ends within three steps. -/
def Obligations.DeadlineEndsTheReceive : Prop :=
  ∀ s : State, s.Inv → s.host = [] → s.rxState = .awaitStart ∨ s.rxState = .recording →
    s.deadline ≤ (readClock s).1 →
    ∃ (k : Nat) (t : State), k ≤ 3 ∧ core.run k s = .next t ∧ t.running = none ∧
      (t.rxState = .success ∨ t.rxState = .failed)

/-! ## The environment (00_scope.md R13, 20_memory.md R57) -/

/-- R13: the clock never runs backwards, in any step. -/
def Obligations.ClockNeverRunsBackwards : Prop :=
  ∀ s t : State, step s = .next t → s.env.now ≤ t.env.now

/-- R13, R57: a capture read returns at most what was asked for, in stream order, and consumes exactly what
it returned. -/
def Obligations.CaptureReadConsumesWhatItReturns : Prop :=
  ∀ (n : Nat) (s : State), ∃ t, (readCapture n s).2 = { s with env := t } ∧
    ((readCapture n s).1 = none → t.capture = s.env.capture ∧ t.capPos = s.env.capPos) ∧
    ∀ w, (readCapture n s).1 = some w → w.length ≤ n ∧ t.capPos = s.env.capPos + w.length ∧
      t.capture = s.env.capture.drop w.length ∧
      w.take s.env.capture.length = s.env.capture.take w.length

/-! ## Invariants (10_state.md R30, 45_receiver_fsm.md R230) -/

/-- The invariant holds after reset. -/
def Obligations.ResetMeetsTheInvariant : Prop := State.reset.Inv

/-- Every step keeps the invariant (R25, R30, R36, R51, R58, R230, R268), from every state that meets it. -/
def Obligations.StepKeepsTheInvariant : Prop :=
  ∀ s t : State, s.Inv → step s = .next t → t.Inv

/-! ## Register reads (10_state.md R36, R37) -/

/-- R36, R37, R260: what the host reads in every register, by index, with the code of each error outcome in
`ERR`; `CMD` and an index the table does not list read nothing. A count of 2^32 or more reads the model's
free value (log 8), of which nothing is said. -/
def Obligations.RegisterReadsByIndex : Prop :=
  ∀ s : State,
    readReg s 0 = none ∧ readReg s 1 = some (.word s.opa) ∧ readReg s 2 = some (.word s.opb) ∧
    readReg s 3 = some (.word s.opc) ∧ (∃ v, readReg s 4 = some (.byte v)) ∧
    readReg s 5 = some (.byte (errCode s.err)) ∧ readReg s 6 = some (.word s.timeoutS) ∧
    readReg s 7 = some (.word s.resI) ∧ readReg s 8 = some (.num s.resN0) ∧
    readReg s 9 = some (.num s.resN1) ∧
    (∀ n, s.msg.length = n → n < 2 ^ 32 → readReg s 10 = some (.word (BitVec.ofNat 32 n))) ∧
    (∀ n, s.bits.length = n → n < 2 ^ 32 → readReg s 11 = some (.word (BitVec.ofNat 32 n))) ∧
    (∀ n, s.pcm.length = n → n < 2 ^ 32 → readReg s 12 = some (.word (BitVec.ofNat 32 n))) ∧
    (∀ n, s.recBuf.length = n → n < 2 ^ 32 → readReg s 13 = some (.word (BitVec.ofNat 32 n))) ∧
    (∀ i, 13 < i → readReg s i = none) ∧
    (readDiag s).1 = rxCode s.diagState ∧
    (s.diagNBits < 2 ^ 32 → (readDiag s).2.1 = BitVec.ofNat 32 s.diagNBits) ∧
    (readDiag s).2.2 = (s.diagCrcRx, s.diagCrcCalc)
end

