-- ==== Sys2Proof/Laws/Crc.lean ====
section
/-! SUPPORT. The CRC step is linear and can be undone, and what follows for the CRC of a byte list (spec
40_crc.md R103, R107). -/

namespace Sys2Proof.Machine

theorem crcShift_eq (t : U16) :
    crcShift t = (t <<< 1) ^^^ (if t.getLsbD 15 then Config.crcPoly else 0#16) := by
  unfold crcShift
  split <;> simp

/-- The step of R102 is linear over XOR (R103). -/
theorem crcShift_xor (s t : U16) : crcShift (s ^^^ t) = crcShift s ^^^ crcShift t := by
  simp only [crcShift_eq, BitVec.getLsbD_xor, BitVec.shiftLeft_xor_distrib]
  generalize Config.crcPoly = p
  cases s.getLsbD 15 <;> cases t.getLsbD 15 <;>
    simp only [Bool.xor_self, Bool.xor_true, Bool.xor_false, Bool.not_false, if_true,
      BitVec.xor_zero, Bool.false_eq_true, if_false]
  · ac_rfl
  · ac_rfl
  · rw [show s <<< 1 ^^^ p ^^^ (t <<< 1 ^^^ p) = s <<< 1 ^^^ t <<< 1 ^^^ (p ^^^ p) by ac_rfl,
      BitVec.xor_self, BitVec.xor_zero]

/-- Bit 0 of the result is the bit that was shifted out, so the step can be undone. -/
theorem crcShift_eq_zero {t : U16} (h : crcShift t = 0#16) : t = 0#16 := by
  have h0 : (crcShift t).getLsbD 0 = false := by simp [h]
  have ht : t.getLsbD 15 = false := by
    by_contra hc
    simp only [Bool.not_eq_false] at hc
    rw [crcShift_eq, if_pos hc] at h0
    simp [Config.crcPoly] at h0
  rw [crcShift_eq, ht, if_neg Bool.false_ne_true, BitVec.xor_zero] at h
  apply BitVec.eq_of_getLsbD_eq
  intro i hi
  rw [BitVec.getLsbD_zero]
  by_cases h15 : i = 15
  · rw [h15, ht]
  · have := congrArg (fun v => v.getLsbD (i + 1)) h
    have hlt : i + 1 < 16 := by omega
    rw [BitVec.getLsbD_shiftLeft, BitVec.getLsbD_zero] at this
    simpa only [hlt, decide_true, Bool.true_and, Nat.not_lt.mpr (Nat.le_add_left 1 i),
      decide_false, Bool.not_false, Nat.add_sub_cancel] using this

theorem crcShifts_xor (n : Nat) (s t : U16) :
    crcShifts n (s ^^^ t) = crcShifts n s ^^^ crcShifts n t := by
  induction n generalizing s t with
  | zero => rfl
  | succ n ih => rw [crcShifts, crcShift_xor, ih]; rfl

theorem crcShifts_eq_zero (n : Nat) {t : U16} (h : crcShifts n t = 0#16) : t = 0#16 := by
  induction n generalizing t with
  | zero => exact h
  | succ n ih => exact crcShift_eq_zero (ih h)

theorem crcShifts_succ (n : Nat) (t : U16) : crcShifts (n + 1) t = crcShift (crcShifts n t) := by
  induction n generalizing t with
  | zero => rfl
  | succ n ih => rw [crcShifts, ih]; rfl

/-- A byte in the top eight bits of the register (R102). -/
theorem topByte_xor (a b : Byte) :
    (a ^^^ b).setWidth 16 <<< 8 = (a.setWidth 16 <<< 8 : U16) ^^^ (b.setWidth 16 <<< 8) := by
  rw [BitVec.setWidth_xor, BitVec.shiftLeft_xor_distrib]

/-- Registers and bytes combine by XOR (R103). -/
theorem crcByte_xor (s t : U16) (a b : Byte) :
    crcByte s a ^^^ crcByte t b = crcShifts 8 ((s ^^^ t) ^^^ ((a ^^^ b).setWidth 16 <<< 8)) := by
  rw [crcByte, crcByte, ← crcShifts_xor, topByte_xor]
  congr 1
  ac_rfl

theorem crcByte_left_injective {s t : U16} {b : Byte} (h : crcByte s b = crcByte t b) : s = t := by
  have := crcByte_xor s t b b
  rw [h, BitVec.xor_self, BitVec.xor_self] at this
  have := crcShifts_eq_zero 8 this.symm
  simpa [BitVec.xor_eq_zero_iff] using this

theorem crcByte_right_injective {s : U16} {a b : Byte} (h : crcByte s a = crcByte s b) : a = b := by
  have := crcByte_xor s s a b
  rw [h, BitVec.xor_self, BitVec.xor_self] at this
  have hz := crcShifts_eq_zero 8 this.symm
  have hx : a ^^^ b = 0#8 := by
    ext i hi
    have := congrArg (fun v => v.getLsbD (i + 8)) hz
    have h2 : i + 8 < 16 := by omega
    simpa [h2, hi, Nat.add_sub_cancel] using this
  exact BitVec.xor_eq_zero_iff.mp hx

theorem foldl_crcByte_injective (bytes : List Byte) {s t : U16}
    (h : bytes.foldl crcByte s = bytes.foldl crcByte t) : s = t := by
  induction bytes generalizing s t with
  | nil => exact h
  | cons b bs ih => exact crcByte_left_injective (ih h)

@[simp] theorem crc16_append (a b : List Byte) : crc16 (a ++ b) = b.foldl crcByte (crc16 a) := by
  simp [crc16]

end Sys2Proof.Machine
end

