-- ==== Sys2Proof/Laws/Num.lean ====
section
/-! SUPPORT. The laws of `NUM` (spec 46_numerics.md R254), which later proofs cite instead of unfolding the
operations. -/

namespace Sys2Proof

namespace NumOps

variable (K : NumOps)

theorem num_small {z : Int} (h : z.natAbs < 2 ^ 31) : K.num z = ⟨z⟩ := if_pos h

@[simp] theorem num_zero : K.num 0 = .zero := by
  simp [num, NumVal.zero]

theorem num_eq_iff {a b : Int} (ha : a.natAbs < 2 ^ 31) (hb : b.natAbs < 2 ^ 31) :
    K.num a = K.num b ↔ a = b := by
  simp [K.num_small ha, K.num_small hb]

theorem num_ne_zero {z : Int} (h : z.natAbs < 2 ^ 31) (hz : z ≠ 0) : K.num z ≠ .zero := by
  rw [← K.num_zero, Ne, K.num_eq_iff h (by decide)]
  exact hz

@[simp] theorem plus_zero (a : NumVal) : K.plus a .zero = a := by
  unfold plus
  split
  · simp [*]
  · simp

@[simp] theorem zero_plus (a : NumVal) : K.plus .zero a = a := by simp [plus]

@[simp] theorem minus_zero (a : NumVal) : K.minus a .zero = a := by simp [minus]

@[simp] theorem times_zero (a : NumVal) : K.times a .zero = .zero := by simp [times]

@[simp] theorem zero_times (a : NumVal) : K.times .zero a = .zero := by simp [times]

theorem zero_quot {a : NumVal} (h : a ≠ .zero) : K.quot .zero a = .zero := by simp [quot, h]

@[simp] theorem sine_zero : K.sine .zero = .zero := by simp [sine]

@[simp] theorem root_zero : K.root .zero = .zero := by simp [root]

@[simp] theorem angle_freq_zero (i : Nat) : K.angle 0 i = .zero := by
  simp only [angle, Nat.cast_zero, num_zero, times_zero, zero_times]
  exact K.zero_quot (K.num_ne_zero (by decide) (by decide))

@[simp] theorem angle_index_zero (f : Nat) : K.angle f 0 = .zero := by
  simp only [angle, Nat.cast_zero, num_zero, times_zero]
  exact K.zero_quot (K.num_ne_zero (by decide) (by decide))

end NumOps

namespace NumVal

theorem gt_iff (a b : NumVal) : a.gt b = true ↔ b.place < a.place := by simp [gt]

theorem gt_eq_false_iff (a b : NumVal) : a.gt b = false ↔ a.place ≤ b.place := by simp [gt]

@[simp] theorem gt_self (a : NumVal) : a.gt a = false := by simp [gt]

theorem gt_trans {a b c : NumVal} (h : a.gt b = true) (k : b.gt c = true) : a.gt c = true := by
  rw [gt_iff] at *
  exact k.trans h

theorem gt_num (K : NumOps) {a b : Int} (ha : a.natAbs < 2 ^ 31) (hb : b.natAbs < 2 ^ 31) :
    (K.num a).gt (K.num b) = true ↔ b < a := by
  simp [K.num_small ha, K.num_small hb, gt_iff]

@[simp] theorem trunc_int (z : Int) : trunc ⟨z⟩ = z := by simp [trunc]

/-- Truncation keeps a value between two integers between them. -/
theorem le_trunc {a : NumVal} {m : Int} (hm : m ≤ 0) (h : (m : Rat) ≤ a.place) : m ≤ a.trunc := by
  unfold trunc
  by_cases h0 : 0 ≤ a.place.num
  · exact hm.trans (Int.tdiv_nonneg h0 (by positivity))
  · have hd : (0 : Int) < a.place.den := by exact_mod_cast a.place.pos
    have h2 : m * a.place.den ≤ a.place.num := by
      have := Rat.num_div_den a.place
      rw [← this, le_div_iff₀ (by exact_mod_cast hd)] at h
      exact_mod_cast h
    have h3 : a.place.num.tdiv a.place.den = -((-a.place.num).tdiv a.place.den) := by
      rw [Int.neg_tdiv, neg_neg]
    rw [h3, Int.tdiv_eq_ediv_of_nonneg (by omega)]
    have : (-a.place.num) / (a.place.den : Int) ≤ -m := by
      apply Int.ediv_le_of_le_mul hd
      linarith
    linarith

theorem trunc_neg (a : NumVal) : trunc ⟨-a.place⟩ = -a.trunc := by
  simp [trunc, Int.neg_tdiv]

theorem trunc_le {a : NumVal} {m : Int} (hm : 0 ≤ m) (h : a.place ≤ (m : Rat)) : a.trunc ≤ m := by
  have := le_trunc (a := ⟨-a.place⟩) (m := -m) (by omega) (by push_cast; linarith)
  rw [trunc_neg] at this
  omega

end NumVal

namespace Machine

@[simp] theorem sampleNum_zero (K : NumOps) : sampleNum K 0#16 = .zero := by
  simp [sampleNum]

theorem powerThreshold_pos (P : Params) : (powerThreshold P).gt .zero = true := by
  unfold powerThreshold
  split
  · assumption
  · simp [NumVal.gt_iff, NumVal.zero]

/-- No power at or below `num(0)` is a detection. -/
@[simp] theorem aboveThreshold_zero (P : Params) : aboveThreshold P .zero = false := by
  have h := powerThreshold_pos P
  rw [NumVal.gt_iff] at h
  rw [aboveThreshold, NumVal.gt_eq_false_iff]
  exact h.le

end Machine

end Sys2Proof
end

