-- ==== Sys2Proof/Laws/State.lean ====
section
/-! SUPPORT. One lemma per field per named update of the state, each true by `rfl`, so that no later
proof unfolds a record update. -/

namespace Sys2Proof.Machine

/-! ## `startOp` -/

@[simp] theorem startOp_crc (r : Running) (s : State) : (startOp r s).crc = s.crc := rfl
@[simp] theorem startOp_phase (r : Running) (s : State) : (startOp r s).phase = s.phase := rfl
@[simp] theorem startOp_fbuf (r : Running) (s : State) : (startOp r s).fbuf = s.fbuf := rfl
@[simp] theorem startOp_rom (r : Running) (s : State) : (startOp r s).rom = s.rom := rfl
@[simp] theorem startOp_rxState (r : Running) (s : State) : (startOp r s).rxState = s.rxState := rfl
@[simp] theorem startOp_deadline (r : Running) (s : State) : (startOp r s).deadline = s.deadline := rfl
@[simp] theorem startOp_skipLeft (r : Running) (s : State) : (startOp r s).skipLeft = s.skipLeft := rfl
@[simp] theorem startOp_capOpen (r : Running) (s : State) : (startOp r s).capOpen = s.capOpen := rfl
@[simp] theorem startOp_msg (r : Running) (s : State) : (startOp r s).msg = s.msg := rfl
@[simp] theorem startOp_bits (r : Running) (s : State) : (startOp r s).bits = s.bits := rfl
@[simp] theorem startOp_pcm (r : Running) (s : State) : (startOp r s).pcm = s.pcm := rfl
@[simp] theorem startOp_recBuf (r : Running) (s : State) : (startOp r s).recBuf = s.recBuf := rfl
@[simp] theorem startOp_cmd (r : Running) (s : State) : (startOp r s).cmd = s.cmd := rfl
@[simp] theorem startOp_opa (r : Running) (s : State) : (startOp r s).opa = s.opa := rfl
@[simp] theorem startOp_opb (r : Running) (s : State) : (startOp r s).opb = s.opb := rfl
@[simp] theorem startOp_opc (r : Running) (s : State) : (startOp r s).opc = s.opc := rfl
@[simp] theorem startOp_running (r : Running) (s : State) : (startOp r s).running = some r := rfl
@[simp] theorem startOp_done (r : Running) (s : State) : (startOp r s).done = false := rfl
@[simp] theorem startOp_ok (r : Running) (s : State) : (startOp r s).ok = s.ok := rfl
@[simp] theorem startOp_err (r : Running) (s : State) : (startOp r s).err = s.err := rfl
@[simp] theorem startOp_timeoutS (r : Running) (s : State) : (startOp r s).timeoutS = s.timeoutS := rfl
@[simp] theorem startOp_resI (r : Running) (s : State) : (startOp r s).resI = s.resI := rfl
@[simp] theorem startOp_resN0 (r : Running) (s : State) : (startOp r s).resN0 = s.resN0 := rfl
@[simp] theorem startOp_resN1 (r : Running) (s : State) : (startOp r s).resN1 = s.resN1 := rfl
@[simp] theorem startOp_diagState (r : Running) (s : State) : (startOp r s).diagState = s.diagState := rfl
@[simp] theorem startOp_diagNBits (r : Running) (s : State) : (startOp r s).diagNBits = s.diagNBits := rfl
@[simp] theorem startOp_diagCrcRx (r : Running) (s : State) : (startOp r s).diagCrcRx = s.diagCrcRx := rfl
@[simp] theorem startOp_diagCrcCalc (r : Running) (s : State) : (startOp r s).diagCrcCalc = s.diagCrcCalc := rfl
@[simp] theorem startOp_host (r : Running) (s : State) : (startOp r s).host = s.host := rfl
@[simp] theorem startOp_env (r : Running) (s : State) : (startOp r s).env = s.env := rfl

/-! ## `endOp` -/

@[simp] theorem endOp_crc (e : ErrCode) (s : State) : (endOp e s).crc = s.crc := rfl
@[simp] theorem endOp_phase (e : ErrCode) (s : State) : (endOp e s).phase = s.phase := rfl
@[simp] theorem endOp_fbuf (e : ErrCode) (s : State) : (endOp e s).fbuf = s.fbuf := rfl
@[simp] theorem endOp_rom (e : ErrCode) (s : State) : (endOp e s).rom = s.rom := rfl
@[simp] theorem endOp_rxState (e : ErrCode) (s : State) : (endOp e s).rxState = s.rxState := rfl
@[simp] theorem endOp_deadline (e : ErrCode) (s : State) : (endOp e s).deadline = s.deadline := rfl
@[simp] theorem endOp_skipLeft (e : ErrCode) (s : State) : (endOp e s).skipLeft = s.skipLeft := rfl
@[simp] theorem endOp_capOpen (e : ErrCode) (s : State) : (endOp e s).capOpen = s.capOpen := rfl
@[simp] theorem endOp_msg (e : ErrCode) (s : State) : (endOp e s).msg = s.msg := rfl
@[simp] theorem endOp_bits (e : ErrCode) (s : State) : (endOp e s).bits = s.bits := rfl
@[simp] theorem endOp_pcm (e : ErrCode) (s : State) : (endOp e s).pcm = s.pcm := rfl
@[simp] theorem endOp_recBuf (e : ErrCode) (s : State) : (endOp e s).recBuf = s.recBuf := rfl
@[simp] theorem endOp_cmd (e : ErrCode) (s : State) : (endOp e s).cmd = s.cmd := rfl
@[simp] theorem endOp_opa (e : ErrCode) (s : State) : (endOp e s).opa = s.opa := rfl
@[simp] theorem endOp_opb (e : ErrCode) (s : State) : (endOp e s).opb = s.opb := rfl
@[simp] theorem endOp_opc (e : ErrCode) (s : State) : (endOp e s).opc = s.opc := rfl
@[simp] theorem endOp_running (e : ErrCode) (s : State) : (endOp e s).running = none := rfl
@[simp] theorem endOp_done (e : ErrCode) (s : State) : (endOp e s).done = true := rfl
@[simp] theorem endOp_ok (e : ErrCode) (s : State) : (endOp e s).ok = decide (e = .none) := rfl
@[simp] theorem endOp_err (e : ErrCode) (s : State) : (endOp e s).err = e := rfl
@[simp] theorem endOp_timeoutS (e : ErrCode) (s : State) : (endOp e s).timeoutS = s.timeoutS := rfl
@[simp] theorem endOp_resI (e : ErrCode) (s : State) : (endOp e s).resI = s.resI := rfl
@[simp] theorem endOp_resN0 (e : ErrCode) (s : State) : (endOp e s).resN0 = s.resN0 := rfl
@[simp] theorem endOp_resN1 (e : ErrCode) (s : State) : (endOp e s).resN1 = s.resN1 := rfl
@[simp] theorem endOp_diagState (e : ErrCode) (s : State) : (endOp e s).diagState = s.diagState := rfl
@[simp] theorem endOp_diagNBits (e : ErrCode) (s : State) : (endOp e s).diagNBits = s.diagNBits := rfl
@[simp] theorem endOp_diagCrcRx (e : ErrCode) (s : State) : (endOp e s).diagCrcRx = s.diagCrcRx := rfl
@[simp] theorem endOp_diagCrcCalc (e : ErrCode) (s : State) : (endOp e s).diagCrcCalc = s.diagCrcCalc := rfl
@[simp] theorem endOp_host (e : ErrCode) (s : State) : (endOp e s).host = s.host := rfl
@[simp] theorem endOp_env (e : ErrCode) (s : State) : (endOp e s).env = s.env := rfl

/-! ## `noMessage` -/

@[simp] theorem noMessage_crc (s : State) : (noMessage s).crc = s.crc := rfl
@[simp] theorem noMessage_phase (s : State) : (noMessage s).phase = s.phase := rfl
@[simp] theorem noMessage_fbuf (s : State) : (noMessage s).fbuf = s.fbuf := rfl
@[simp] theorem noMessage_rom (s : State) : (noMessage s).rom = s.rom := rfl
@[simp] theorem noMessage_rxState (s : State) : (noMessage s).rxState = s.rxState := rfl
@[simp] theorem noMessage_deadline (s : State) : (noMessage s).deadline = s.deadline := rfl
@[simp] theorem noMessage_skipLeft (s : State) : (noMessage s).skipLeft = s.skipLeft := rfl
@[simp] theorem noMessage_capOpen (s : State) : (noMessage s).capOpen = s.capOpen := rfl
@[simp] theorem noMessage_msg (s : State) : (noMessage s).msg = [] := rfl
@[simp] theorem noMessage_bits (s : State) : (noMessage s).bits = s.bits := rfl
@[simp] theorem noMessage_pcm (s : State) : (noMessage s).pcm = s.pcm := rfl
@[simp] theorem noMessage_recBuf (s : State) : (noMessage s).recBuf = s.recBuf := rfl
@[simp] theorem noMessage_cmd (s : State) : (noMessage s).cmd = s.cmd := rfl
@[simp] theorem noMessage_opa (s : State) : (noMessage s).opa = s.opa := rfl
@[simp] theorem noMessage_opb (s : State) : (noMessage s).opb = s.opb := rfl
@[simp] theorem noMessage_opc (s : State) : (noMessage s).opc = s.opc := rfl
@[simp] theorem noMessage_running (s : State) : (noMessage s).running = s.running := rfl
@[simp] theorem noMessage_done (s : State) : (noMessage s).done = s.done := rfl
@[simp] theorem noMessage_ok (s : State) : (noMessage s).ok = s.ok := rfl
@[simp] theorem noMessage_err (s : State) : (noMessage s).err = s.err := rfl
@[simp] theorem noMessage_timeoutS (s : State) : (noMessage s).timeoutS = s.timeoutS := rfl
@[simp] theorem noMessage_resI (s : State) : (noMessage s).resI = s.resI := rfl
@[simp] theorem noMessage_resN0 (s : State) : (noMessage s).resN0 = s.resN0 := rfl
@[simp] theorem noMessage_resN1 (s : State) : (noMessage s).resN1 = s.resN1 := rfl
@[simp] theorem noMessage_diagState (s : State) : (noMessage s).diagState = s.diagState := rfl
@[simp] theorem noMessage_diagNBits (s : State) : (noMessage s).diagNBits = s.diagNBits := rfl
@[simp] theorem noMessage_diagCrcRx (s : State) : (noMessage s).diagCrcRx = s.diagCrcRx := rfl
@[simp] theorem noMessage_diagCrcCalc (s : State) : (noMessage s).diagCrcCalc = s.diagCrcCalc := rfl
@[simp] theorem noMessage_host (s : State) : (noMessage s).host = s.host := rfl
@[simp] theorem noMessage_env (s : State) : (noMessage s).env = s.env := rfl

/-! ## `clearModulator` -/

@[simp] theorem clearModulator_crc (s : State) : (clearModulator s).crc = s.crc := rfl
@[simp] theorem clearModulator_phase (s : State) : (clearModulator s).phase = .zero := rfl
@[simp] theorem clearModulator_fbuf (s : State) : (clearModulator s).fbuf = [] := rfl
@[simp] theorem clearModulator_rom (s : State) : (clearModulator s).rom = s.rom := rfl
@[simp] theorem clearModulator_rxState (s : State) : (clearModulator s).rxState = s.rxState := rfl
@[simp] theorem clearModulator_deadline (s : State) : (clearModulator s).deadline = s.deadline := rfl
@[simp] theorem clearModulator_skipLeft (s : State) : (clearModulator s).skipLeft = s.skipLeft := rfl
@[simp] theorem clearModulator_capOpen (s : State) : (clearModulator s).capOpen = s.capOpen := rfl
@[simp] theorem clearModulator_msg (s : State) : (clearModulator s).msg = s.msg := rfl
@[simp] theorem clearModulator_bits (s : State) : (clearModulator s).bits = s.bits := rfl
@[simp] theorem clearModulator_pcm (s : State) : (clearModulator s).pcm = s.pcm := rfl
@[simp] theorem clearModulator_recBuf (s : State) : (clearModulator s).recBuf = s.recBuf := rfl
@[simp] theorem clearModulator_cmd (s : State) : (clearModulator s).cmd = s.cmd := rfl
@[simp] theorem clearModulator_opa (s : State) : (clearModulator s).opa = s.opa := rfl
@[simp] theorem clearModulator_opb (s : State) : (clearModulator s).opb = s.opb := rfl
@[simp] theorem clearModulator_opc (s : State) : (clearModulator s).opc = s.opc := rfl
@[simp] theorem clearModulator_running (s : State) : (clearModulator s).running = s.running := rfl
@[simp] theorem clearModulator_done (s : State) : (clearModulator s).done = s.done := rfl
@[simp] theorem clearModulator_ok (s : State) : (clearModulator s).ok = s.ok := rfl
@[simp] theorem clearModulator_err (s : State) : (clearModulator s).err = s.err := rfl
@[simp] theorem clearModulator_timeoutS (s : State) : (clearModulator s).timeoutS = s.timeoutS := rfl
@[simp] theorem clearModulator_resI (s : State) : (clearModulator s).resI = s.resI := rfl
@[simp] theorem clearModulator_resN0 (s : State) : (clearModulator s).resN0 = s.resN0 := rfl
@[simp] theorem clearModulator_resN1 (s : State) : (clearModulator s).resN1 = s.resN1 := rfl
@[simp] theorem clearModulator_diagState (s : State) : (clearModulator s).diagState = s.diagState := rfl
@[simp] theorem clearModulator_diagNBits (s : State) : (clearModulator s).diagNBits = s.diagNBits := rfl
@[simp] theorem clearModulator_diagCrcRx (s : State) : (clearModulator s).diagCrcRx = s.diagCrcRx := rfl
@[simp] theorem clearModulator_diagCrcCalc (s : State) : (clearModulator s).diagCrcCalc = s.diagCrcCalc := rfl
@[simp] theorem clearModulator_host (s : State) : (clearModulator s).host = s.host := rfl
@[simp] theorem clearModulator_env (s : State) : (clearModulator s).env = s.env := rfl

/-! ## `playTone` -/

@[simp] theorem playTone_crc (K : NumOps) (f ms : Nat) (s : State) : (playTone K f ms s).crc = s.crc := rfl
@[simp] theorem playTone_phase (K : NumOps) (f ms : Nat) (s : State) : (playTone K f ms s).phase = K.plus s.phase (K.angle f (sampleCount ms)) := rfl
@[simp] theorem playTone_fbuf (K : NumOps) (f ms : Nat) (s : State) : (playTone K f ms s).fbuf = s.fbuf ++ toneValues K s.phase f (sampleCount ms) := rfl
@[simp] theorem playTone_rom (K : NumOps) (f ms : Nat) (s : State) : (playTone K f ms s).rom = s.rom := rfl
@[simp] theorem playTone_rxState (K : NumOps) (f ms : Nat) (s : State) : (playTone K f ms s).rxState = s.rxState := rfl
@[simp] theorem playTone_deadline (K : NumOps) (f ms : Nat) (s : State) : (playTone K f ms s).deadline = s.deadline := rfl
@[simp] theorem playTone_skipLeft (K : NumOps) (f ms : Nat) (s : State) : (playTone K f ms s).skipLeft = s.skipLeft := rfl
@[simp] theorem playTone_capOpen (K : NumOps) (f ms : Nat) (s : State) : (playTone K f ms s).capOpen = s.capOpen := rfl
@[simp] theorem playTone_msg (K : NumOps) (f ms : Nat) (s : State) : (playTone K f ms s).msg = s.msg := rfl
@[simp] theorem playTone_bits (K : NumOps) (f ms : Nat) (s : State) : (playTone K f ms s).bits = s.bits := rfl
@[simp] theorem playTone_pcm (K : NumOps) (f ms : Nat) (s : State) : (playTone K f ms s).pcm = s.pcm := rfl
@[simp] theorem playTone_recBuf (K : NumOps) (f ms : Nat) (s : State) : (playTone K f ms s).recBuf = s.recBuf := rfl
@[simp] theorem playTone_cmd (K : NumOps) (f ms : Nat) (s : State) : (playTone K f ms s).cmd = s.cmd := rfl
@[simp] theorem playTone_opa (K : NumOps) (f ms : Nat) (s : State) : (playTone K f ms s).opa = s.opa := rfl
@[simp] theorem playTone_opb (K : NumOps) (f ms : Nat) (s : State) : (playTone K f ms s).opb = s.opb := rfl
@[simp] theorem playTone_opc (K : NumOps) (f ms : Nat) (s : State) : (playTone K f ms s).opc = s.opc := rfl
@[simp] theorem playTone_running (K : NumOps) (f ms : Nat) (s : State) : (playTone K f ms s).running = s.running := rfl
@[simp] theorem playTone_done (K : NumOps) (f ms : Nat) (s : State) : (playTone K f ms s).done = s.done := rfl
@[simp] theorem playTone_ok (K : NumOps) (f ms : Nat) (s : State) : (playTone K f ms s).ok = s.ok := rfl
@[simp] theorem playTone_err (K : NumOps) (f ms : Nat) (s : State) : (playTone K f ms s).err = s.err := rfl
@[simp] theorem playTone_timeoutS (K : NumOps) (f ms : Nat) (s : State) : (playTone K f ms s).timeoutS = s.timeoutS := rfl
@[simp] theorem playTone_resI (K : NumOps) (f ms : Nat) (s : State) : (playTone K f ms s).resI = s.resI := rfl
@[simp] theorem playTone_resN0 (K : NumOps) (f ms : Nat) (s : State) : (playTone K f ms s).resN0 = s.resN0 := rfl
@[simp] theorem playTone_resN1 (K : NumOps) (f ms : Nat) (s : State) : (playTone K f ms s).resN1 = s.resN1 := rfl
@[simp] theorem playTone_diagState (K : NumOps) (f ms : Nat) (s : State) : (playTone K f ms s).diagState = s.diagState := rfl
@[simp] theorem playTone_diagNBits (K : NumOps) (f ms : Nat) (s : State) : (playTone K f ms s).diagNBits = s.diagNBits := rfl
@[simp] theorem playTone_diagCrcRx (K : NumOps) (f ms : Nat) (s : State) : (playTone K f ms s).diagCrcRx = s.diagCrcRx := rfl
@[simp] theorem playTone_diagCrcCalc (K : NumOps) (f ms : Nat) (s : State) : (playTone K f ms s).diagCrcCalc = s.diagCrcCalc := rfl
@[simp] theorem playTone_host (K : NumOps) (f ms : Nat) (s : State) : (playTone K f ms s).host = s.host := rfl
@[simp] theorem playTone_env (K : NumOps) (f ms : Nat) (s : State) : (playTone K f ms s).env = s.env := rfl

/-! ## `searchBody` -/

@[simp] theorem searchBody_crc (K : NumOps) (s : State) : (searchBody K s).crc = s.crc := rfl
@[simp] theorem searchBody_phase (K : NumOps) (s : State) : (searchBody K s).phase = s.phase := rfl
@[simp] theorem searchBody_fbuf (K : NumOps) (s : State) : (searchBody K s).fbuf = s.fbuf := rfl
@[simp] theorem searchBody_rom (K : NumOps) (s : State) : (searchBody K s).rom = s.rom := rfl
@[simp] theorem searchBody_rxState (K : NumOps) (s : State) : (searchBody K s).rxState = s.rxState := rfl
@[simp] theorem searchBody_deadline (K : NumOps) (s : State) : (searchBody K s).deadline = s.deadline := rfl
@[simp] theorem searchBody_skipLeft (K : NumOps) (s : State) : (searchBody K s).skipLeft = s.skipLeft := rfl
@[simp] theorem searchBody_capOpen (K : NumOps) (s : State) : (searchBody K s).capOpen = s.capOpen := rfl
@[simp] theorem searchBody_msg (K : NumOps) (s : State) : (searchBody K s).msg = s.msg := rfl
@[simp] theorem searchBody_bits (K : NumOps) (s : State) : (searchBody K s).bits = s.bits := rfl
@[simp] theorem searchBody_pcm (K : NumOps) (s : State) : (searchBody K s).pcm = s.pcm := rfl
@[simp] theorem searchBody_recBuf (K : NumOps) (s : State) : (searchBody K s).recBuf = s.recBuf := rfl
@[simp] theorem searchBody_cmd (K : NumOps) (s : State) : (searchBody K s).cmd = s.cmd := rfl
@[simp] theorem searchBody_opa (K : NumOps) (s : State) : (searchBody K s).opa = s.opa := rfl
@[simp] theorem searchBody_opb (K : NumOps) (s : State) : (searchBody K s).opb = s.opb := rfl
@[simp] theorem searchBody_opc (K : NumOps) (s : State) : (searchBody K s).opc = s.opc := rfl
@[simp] theorem searchBody_running (K : NumOps) (s : State) : (searchBody K s).running = s.running := rfl
@[simp] theorem searchBody_done (K : NumOps) (s : State) : (searchBody K s).done = s.done := rfl
@[simp] theorem searchBody_ok (K : NumOps) (s : State) : (searchBody K s).ok = s.ok := rfl
@[simp] theorem searchBody_err (K : NumOps) (s : State) : (searchBody K s).err = s.err := rfl
@[simp] theorem searchBody_timeoutS (K : NumOps) (s : State) : (searchBody K s).timeoutS = s.timeoutS := rfl
@[simp] theorem searchBody_resI (K : NumOps) (s : State) : (searchBody K s).resI = BitVec.ofNat 32 (searchOffset K s.rom s.recBuf).1 := rfl
@[simp] theorem searchBody_resN0 (K : NumOps) (s : State) : (searchBody K s).resN0 = (searchOffset K s.rom s.recBuf).2 := rfl
@[simp] theorem searchBody_resN1 (K : NumOps) (s : State) : (searchBody K s).resN1 = s.resN1 := rfl
@[simp] theorem searchBody_diagState (K : NumOps) (s : State) : (searchBody K s).diagState = s.diagState := rfl
@[simp] theorem searchBody_diagNBits (K : NumOps) (s : State) : (searchBody K s).diagNBits = s.diagNBits := rfl
@[simp] theorem searchBody_diagCrcRx (K : NumOps) (s : State) : (searchBody K s).diagCrcRx = s.diagCrcRx := rfl
@[simp] theorem searchBody_diagCrcCalc (K : NumOps) (s : State) : (searchBody K s).diagCrcCalc = s.diagCrcCalc := rfl
@[simp] theorem searchBody_host (K : NumOps) (s : State) : (searchBody K s).host = s.host := rfl
@[simp] theorem searchBody_env (K : NumOps) (s : State) : (searchBody K s).env = s.env := rfl

/-! ## `closeCapture` -/

@[simp] theorem closeCapture_crc (s : State) : (closeCapture s).crc = s.crc := rfl
@[simp] theorem closeCapture_phase (s : State) : (closeCapture s).phase = s.phase := rfl
@[simp] theorem closeCapture_fbuf (s : State) : (closeCapture s).fbuf = s.fbuf := rfl
@[simp] theorem closeCapture_rom (s : State) : (closeCapture s).rom = s.rom := rfl
@[simp] theorem closeCapture_rxState (s : State) : (closeCapture s).rxState = s.rxState := rfl
@[simp] theorem closeCapture_deadline (s : State) : (closeCapture s).deadline = s.deadline := rfl
@[simp] theorem closeCapture_skipLeft (s : State) : (closeCapture s).skipLeft = s.skipLeft := rfl
@[simp] theorem closeCapture_capOpen (s : State) : (closeCapture s).capOpen = false := rfl
@[simp] theorem closeCapture_msg (s : State) : (closeCapture s).msg = s.msg := rfl
@[simp] theorem closeCapture_bits (s : State) : (closeCapture s).bits = s.bits := rfl
@[simp] theorem closeCapture_pcm (s : State) : (closeCapture s).pcm = s.pcm := rfl
@[simp] theorem closeCapture_recBuf (s : State) : (closeCapture s).recBuf = s.recBuf := rfl
@[simp] theorem closeCapture_cmd (s : State) : (closeCapture s).cmd = s.cmd := rfl
@[simp] theorem closeCapture_opa (s : State) : (closeCapture s).opa = s.opa := rfl
@[simp] theorem closeCapture_opb (s : State) : (closeCapture s).opb = s.opb := rfl
@[simp] theorem closeCapture_opc (s : State) : (closeCapture s).opc = s.opc := rfl
@[simp] theorem closeCapture_running (s : State) : (closeCapture s).running = s.running := rfl
@[simp] theorem closeCapture_done (s : State) : (closeCapture s).done = s.done := rfl
@[simp] theorem closeCapture_ok (s : State) : (closeCapture s).ok = s.ok := rfl
@[simp] theorem closeCapture_err (s : State) : (closeCapture s).err = s.err := rfl
@[simp] theorem closeCapture_timeoutS (s : State) : (closeCapture s).timeoutS = s.timeoutS := rfl
@[simp] theorem closeCapture_resI (s : State) : (closeCapture s).resI = s.resI := rfl
@[simp] theorem closeCapture_resN0 (s : State) : (closeCapture s).resN0 = s.resN0 := rfl
@[simp] theorem closeCapture_resN1 (s : State) : (closeCapture s).resN1 = s.resN1 := rfl
@[simp] theorem closeCapture_diagState (s : State) : (closeCapture s).diagState = s.diagState := rfl
@[simp] theorem closeCapture_diagNBits (s : State) : (closeCapture s).diagNBits = s.diagNBits := rfl
@[simp] theorem closeCapture_diagCrcRx (s : State) : (closeCapture s).diagCrcRx = s.diagCrcRx := rfl
@[simp] theorem closeCapture_diagCrcCalc (s : State) : (closeCapture s).diagCrcCalc = s.diagCrcCalc := rfl
@[simp] theorem closeCapture_host (s : State) : (closeCapture s).host = s.host := rfl
@[simp] theorem closeCapture_env (s : State) : (closeCapture s).env = { s.env with capCloses := s.env.capCloses + 1 } := rfl

/-! ## `spendDraws` -/

@[simp] theorem spendDraws_crc (n len : Nat) (s : State) : (spendDraws n len s).crc = s.crc := rfl
@[simp] theorem spendDraws_phase (n len : Nat) (s : State) : (spendDraws n len s).phase = s.phase := rfl
@[simp] theorem spendDraws_fbuf (n len : Nat) (s : State) : (spendDraws n len s).fbuf = s.fbuf := rfl
@[simp] theorem spendDraws_rom (n len : Nat) (s : State) : (spendDraws n len s).rom = s.rom := rfl
@[simp] theorem spendDraws_rxState (n len : Nat) (s : State) : (spendDraws n len s).rxState = s.rxState := rfl
@[simp] theorem spendDraws_deadline (n len : Nat) (s : State) : (spendDraws n len s).deadline = s.deadline := rfl
@[simp] theorem spendDraws_skipLeft (n len : Nat) (s : State) : (spendDraws n len s).skipLeft = s.skipLeft := rfl
@[simp] theorem spendDraws_capOpen (n len : Nat) (s : State) : (spendDraws n len s).capOpen = s.capOpen := rfl
@[simp] theorem spendDraws_msg (n len : Nat) (s : State) : (spendDraws n len s).msg = s.msg := rfl
@[simp] theorem spendDraws_bits (n len : Nat) (s : State) : (spendDraws n len s).bits = s.bits := rfl
@[simp] theorem spendDraws_pcm (n len : Nat) (s : State) : (spendDraws n len s).pcm = s.pcm := rfl
@[simp] theorem spendDraws_recBuf (n len : Nat) (s : State) : (spendDraws n len s).recBuf = s.recBuf := rfl
@[simp] theorem spendDraws_cmd (n len : Nat) (s : State) : (spendDraws n len s).cmd = s.cmd := rfl
@[simp] theorem spendDraws_opa (n len : Nat) (s : State) : (spendDraws n len s).opa = s.opa := rfl
@[simp] theorem spendDraws_opb (n len : Nat) (s : State) : (spendDraws n len s).opb = s.opb := rfl
@[simp] theorem spendDraws_opc (n len : Nat) (s : State) : (spendDraws n len s).opc = s.opc := rfl
@[simp] theorem spendDraws_running (n len : Nat) (s : State) : (spendDraws n len s).running = s.running := rfl
@[simp] theorem spendDraws_done (n len : Nat) (s : State) : (spendDraws n len s).done = s.done := rfl
@[simp] theorem spendDraws_ok (n len : Nat) (s : State) : (spendDraws n len s).ok = s.ok := rfl
@[simp] theorem spendDraws_err (n len : Nat) (s : State) : (spendDraws n len s).err = s.err := rfl
@[simp] theorem spendDraws_timeoutS (n len : Nat) (s : State) : (spendDraws n len s).timeoutS = s.timeoutS := rfl
@[simp] theorem spendDraws_resI (n len : Nat) (s : State) : (spendDraws n len s).resI = s.resI := rfl
@[simp] theorem spendDraws_resN0 (n len : Nat) (s : State) : (spendDraws n len s).resN0 = s.resN0 := rfl
@[simp] theorem spendDraws_resN1 (n len : Nat) (s : State) : (spendDraws n len s).resN1 = s.resN1 := rfl
@[simp] theorem spendDraws_diagState (n len : Nat) (s : State) : (spendDraws n len s).diagState = s.diagState := rfl
@[simp] theorem spendDraws_diagNBits (n len : Nat) (s : State) : (spendDraws n len s).diagNBits = s.diagNBits := rfl
@[simp] theorem spendDraws_diagCrcRx (n len : Nat) (s : State) : (spendDraws n len s).diagCrcRx = s.diagCrcRx := rfl
@[simp] theorem spendDraws_diagCrcCalc (n len : Nat) (s : State) : (spendDraws n len s).diagCrcCalc = s.diagCrcCalc := rfl
@[simp] theorem spendDraws_host (n len : Nat) (s : State) : (spendDraws n len s).host = s.host := rfl
@[simp] theorem spendDraws_env (n len : Nat) (s : State) : (spendDraws n len s).env = { s.env with draws := drawsAfterResize s.env.draws n len } := rfl

/-! ## The state after `readClock` -/

@[simp] theorem readClock_crc (s : State) : (readClock s).2.crc = s.crc := rfl
@[simp] theorem readClock_phase (s : State) : (readClock s).2.phase = s.phase := rfl
@[simp] theorem readClock_fbuf (s : State) : (readClock s).2.fbuf = s.fbuf := rfl
@[simp] theorem readClock_rom (s : State) : (readClock s).2.rom = s.rom := rfl
@[simp] theorem readClock_rxState (s : State) : (readClock s).2.rxState = s.rxState := rfl
@[simp] theorem readClock_deadline (s : State) : (readClock s).2.deadline = s.deadline := rfl
@[simp] theorem readClock_skipLeft (s : State) : (readClock s).2.skipLeft = s.skipLeft := rfl
@[simp] theorem readClock_capOpen (s : State) : (readClock s).2.capOpen = s.capOpen := rfl
@[simp] theorem readClock_msg (s : State) : (readClock s).2.msg = s.msg := rfl
@[simp] theorem readClock_bits (s : State) : (readClock s).2.bits = s.bits := rfl
@[simp] theorem readClock_pcm (s : State) : (readClock s).2.pcm = s.pcm := rfl
@[simp] theorem readClock_recBuf (s : State) : (readClock s).2.recBuf = s.recBuf := rfl
@[simp] theorem readClock_cmd (s : State) : (readClock s).2.cmd = s.cmd := rfl
@[simp] theorem readClock_opa (s : State) : (readClock s).2.opa = s.opa := rfl
@[simp] theorem readClock_opb (s : State) : (readClock s).2.opb = s.opb := rfl
@[simp] theorem readClock_opc (s : State) : (readClock s).2.opc = s.opc := rfl
@[simp] theorem readClock_running (s : State) : (readClock s).2.running = s.running := rfl
@[simp] theorem readClock_done (s : State) : (readClock s).2.done = s.done := rfl
@[simp] theorem readClock_ok (s : State) : (readClock s).2.ok = s.ok := rfl
@[simp] theorem readClock_err (s : State) : (readClock s).2.err = s.err := rfl
@[simp] theorem readClock_timeoutS (s : State) : (readClock s).2.timeoutS = s.timeoutS := rfl
@[simp] theorem readClock_resI (s : State) : (readClock s).2.resI = s.resI := rfl
@[simp] theorem readClock_resN0 (s : State) : (readClock s).2.resN0 = s.resN0 := rfl
@[simp] theorem readClock_resN1 (s : State) : (readClock s).2.resN1 = s.resN1 := rfl
@[simp] theorem readClock_diagState (s : State) : (readClock s).2.diagState = s.diagState := rfl
@[simp] theorem readClock_diagNBits (s : State) : (readClock s).2.diagNBits = s.diagNBits := rfl
@[simp] theorem readClock_diagCrcRx (s : State) : (readClock s).2.diagCrcRx = s.diagCrcRx := rfl
@[simp] theorem readClock_diagCrcCalc (s : State) : (readClock s).2.diagCrcCalc = s.diagCrcCalc := rfl
@[simp] theorem readClock_host (s : State) : (readClock s).2.host = s.host := rfl

/-! ## The state after `openCapture` -/

@[simp] theorem openCapture_crc (s : State) : (openCapture s).2.crc = s.crc := rfl
@[simp] theorem openCapture_phase (s : State) : (openCapture s).2.phase = s.phase := rfl
@[simp] theorem openCapture_fbuf (s : State) : (openCapture s).2.fbuf = s.fbuf := rfl
@[simp] theorem openCapture_rom (s : State) : (openCapture s).2.rom = s.rom := rfl
@[simp] theorem openCapture_rxState (s : State) : (openCapture s).2.rxState = s.rxState := rfl
@[simp] theorem openCapture_deadline (s : State) : (openCapture s).2.deadline = s.deadline := rfl
@[simp] theorem openCapture_skipLeft (s : State) : (openCapture s).2.skipLeft = s.skipLeft := rfl
@[simp] theorem openCapture_capOpen (s : State) : (openCapture s).2.capOpen = s.capOpen := rfl
@[simp] theorem openCapture_msg (s : State) : (openCapture s).2.msg = s.msg := rfl
@[simp] theorem openCapture_bits (s : State) : (openCapture s).2.bits = s.bits := rfl
@[simp] theorem openCapture_pcm (s : State) : (openCapture s).2.pcm = s.pcm := rfl
@[simp] theorem openCapture_recBuf (s : State) : (openCapture s).2.recBuf = s.recBuf := rfl
@[simp] theorem openCapture_cmd (s : State) : (openCapture s).2.cmd = s.cmd := rfl
@[simp] theorem openCapture_opa (s : State) : (openCapture s).2.opa = s.opa := rfl
@[simp] theorem openCapture_opb (s : State) : (openCapture s).2.opb = s.opb := rfl
@[simp] theorem openCapture_opc (s : State) : (openCapture s).2.opc = s.opc := rfl
@[simp] theorem openCapture_running (s : State) : (openCapture s).2.running = s.running := rfl
@[simp] theorem openCapture_done (s : State) : (openCapture s).2.done = s.done := rfl
@[simp] theorem openCapture_ok (s : State) : (openCapture s).2.ok = s.ok := rfl
@[simp] theorem openCapture_err (s : State) : (openCapture s).2.err = s.err := rfl
@[simp] theorem openCapture_timeoutS (s : State) : (openCapture s).2.timeoutS = s.timeoutS := rfl
@[simp] theorem openCapture_resI (s : State) : (openCapture s).2.resI = s.resI := rfl
@[simp] theorem openCapture_resN0 (s : State) : (openCapture s).2.resN0 = s.resN0 := rfl
@[simp] theorem openCapture_resN1 (s : State) : (openCapture s).2.resN1 = s.resN1 := rfl
@[simp] theorem openCapture_diagState (s : State) : (openCapture s).2.diagState = s.diagState := rfl
@[simp] theorem openCapture_diagNBits (s : State) : (openCapture s).2.diagNBits = s.diagNBits := rfl
@[simp] theorem openCapture_diagCrcRx (s : State) : (openCapture s).2.diagCrcRx = s.diagCrcRx := rfl
@[simp] theorem openCapture_diagCrcCalc (s : State) : (openCapture s).2.diagCrcCalc = s.diagCrcCalc := rfl
@[simp] theorem openCapture_host (s : State) : (openCapture s).2.host = s.host := rfl

/-! ## The state after `playWrite` -/

@[simp] theorem playWrite_crc (p : List Sample) (s : State) : (playWrite p s).2.crc = s.crc := rfl
@[simp] theorem playWrite_phase (p : List Sample) (s : State) : (playWrite p s).2.phase = s.phase := rfl
@[simp] theorem playWrite_fbuf (p : List Sample) (s : State) : (playWrite p s).2.fbuf = s.fbuf := rfl
@[simp] theorem playWrite_rom (p : List Sample) (s : State) : (playWrite p s).2.rom = s.rom := rfl
@[simp] theorem playWrite_rxState (p : List Sample) (s : State) : (playWrite p s).2.rxState = s.rxState := rfl
@[simp] theorem playWrite_deadline (p : List Sample) (s : State) : (playWrite p s).2.deadline = s.deadline := rfl
@[simp] theorem playWrite_skipLeft (p : List Sample) (s : State) : (playWrite p s).2.skipLeft = s.skipLeft := rfl
@[simp] theorem playWrite_capOpen (p : List Sample) (s : State) : (playWrite p s).2.capOpen = s.capOpen := rfl
@[simp] theorem playWrite_msg (p : List Sample) (s : State) : (playWrite p s).2.msg = s.msg := rfl
@[simp] theorem playWrite_bits (p : List Sample) (s : State) : (playWrite p s).2.bits = s.bits := rfl
@[simp] theorem playWrite_pcm (p : List Sample) (s : State) : (playWrite p s).2.pcm = s.pcm := rfl
@[simp] theorem playWrite_recBuf (p : List Sample) (s : State) : (playWrite p s).2.recBuf = s.recBuf := rfl
@[simp] theorem playWrite_cmd (p : List Sample) (s : State) : (playWrite p s).2.cmd = s.cmd := rfl
@[simp] theorem playWrite_opa (p : List Sample) (s : State) : (playWrite p s).2.opa = s.opa := rfl
@[simp] theorem playWrite_opb (p : List Sample) (s : State) : (playWrite p s).2.opb = s.opb := rfl
@[simp] theorem playWrite_opc (p : List Sample) (s : State) : (playWrite p s).2.opc = s.opc := rfl
@[simp] theorem playWrite_running (p : List Sample) (s : State) : (playWrite p s).2.running = s.running := rfl
@[simp] theorem playWrite_done (p : List Sample) (s : State) : (playWrite p s).2.done = s.done := rfl
@[simp] theorem playWrite_ok (p : List Sample) (s : State) : (playWrite p s).2.ok = s.ok := rfl
@[simp] theorem playWrite_err (p : List Sample) (s : State) : (playWrite p s).2.err = s.err := rfl
@[simp] theorem playWrite_timeoutS (p : List Sample) (s : State) : (playWrite p s).2.timeoutS = s.timeoutS := rfl
@[simp] theorem playWrite_resI (p : List Sample) (s : State) : (playWrite p s).2.resI = s.resI := rfl
@[simp] theorem playWrite_resN0 (p : List Sample) (s : State) : (playWrite p s).2.resN0 = s.resN0 := rfl
@[simp] theorem playWrite_resN1 (p : List Sample) (s : State) : (playWrite p s).2.resN1 = s.resN1 := rfl
@[simp] theorem playWrite_diagState (p : List Sample) (s : State) : (playWrite p s).2.diagState = s.diagState := rfl
@[simp] theorem playWrite_diagNBits (p : List Sample) (s : State) : (playWrite p s).2.diagNBits = s.diagNBits := rfl
@[simp] theorem playWrite_diagCrcRx (p : List Sample) (s : State) : (playWrite p s).2.diagCrcRx = s.diagCrcRx := rfl
@[simp] theorem playWrite_diagCrcCalc (p : List Sample) (s : State) : (playWrite p s).2.diagCrcCalc = s.diagCrcCalc := rfl
@[simp] theorem playWrite_host (p : List Sample) (s : State) : (playWrite p s).2.host = s.host := rfl

end Sys2Proof.Machine
end

