-- ==== Sys2Proof/Laws/Ops.lean ====
section
/-! SUPPORT. What the shared operations of Machine/Ops.lean can do, said once. -/

namespace Sys2Proof.Machine

@[simp] theorem conclude_eq (r : State × ErrCode) : conclude r = endOp r.2 r.1 := rfl

@[simp] theorem goOn_eq (s : State) : goOn s = .next s := rfl

/-- The clock's answer is not below the last one, and it is the clock's new value (R13). -/
theorem readClock_spec (s : State) :
    s.env.now ≤ (readClock s).1 ∧ (readClock s).2.env.now = (readClock s).1 := by
  refine ⟨?_, rfl⟩
  simp only [readClock]
  split <;> simp_all

/-- What else a clock reading changes in the environment: the answer it took. -/
theorem readClock_eq (s : State) :
    (readClock s).2 = { s with env := { s.env with
      now := (readClock s).1, times := s.env.times.tail, draws := s.env.draws + 1 } } := rfl

@[simp] theorem length_nextSamples (k : Nat) (e : Env) : (nextSamples k e).length = k := by
  simp [nextSamples]
  omega

/-- A failed read consumes no sample. -/
theorem readCapture_none {n : Nat} {s t : State} (h : readCapture n s = (none, t)) :
    t = { s with env := { s.env with reads := s.env.reads.tail, draws := s.env.draws + 1 } } := by
  unfold readCapture at h
  split at h <;> simp_all

/-- A read that succeeds returns the next samples, at most as many as asked for, and consumes them. -/
theorem readCapture_some {n : Nat} {s t : State} {w : List Sample} (h : readCapture n s = (some w, t)) :
    w.length ≤ n ∧ w = nextSamples w.length s.env ∧
    t = { s with env := { s.env with
      reads := s.env.reads.tail, draws := s.env.draws + 1
      capture := s.env.capture.drop w.length, capPos := s.env.capPos + w.length } } := by
  unfold readCapture at h
  split at h
  · simp at h
  · simp only [Prod.mk.injEq, Option.some.injEq] at h
    obtain ⟨rfl, rfl⟩ := h
    simp

@[simp] theorem length_resize {α : Type} (free : Nat → α) (d n : Nat) (xs : List α) :
    (resize free d n xs).length = n := by
  simp [resize]
  omega

/-- A length write keeps the elements below both lengths. -/
theorem getElem?_resize {α : Type} (free : Nat → α) (d : Nat) {n i : Nat} {xs : List α}
    (h : i < n) (k : i < xs.length) : (resize free d n xs)[i]? = xs[i]? := by
  rw [resize, List.getElem?_append_left (by simp; omega), List.getElem?_take, if_pos h]

end Sys2Proof.Machine
end

