-- ==== Sys2Proof/Laws/Demodulator.lean ====
section
/-! SUPPORT. The candidate offsets, what the offset search finds, and that `DEMODULATE` raises nothing (spec
44_demodulator.md R196, R198). -/

namespace Sys2Proof.Machine

/-- The candidates are the multiples of 4 whose window fits, up to one symbol (R196). -/
theorem mem_candidates {n d : Nat} : d ∈ candidates n ↔ d % 4 = 0 ∧ d + 1764 ≤ n ∧ d ≤ 1764 := by
  unfold candidates
  simp only [Config.symbolSamples, Config.searchStep]
  split
  · simp only [List.not_mem_nil, false_iff]; omega
  · simp only [List.mem_map, List.mem_range]
    constructor
    · rintro ⟨a, ha, rfl⟩; omega
    · intro h; exact ⟨d / 4, by omega, by omega⟩

/-- The candidates are in ascending order (R196). -/
theorem candidates_ascending (n : Nat) : (candidates n).Pairwise (· < ·) := by
  unfold candidates
  split
  · exact List.Pairwise.nil
  · rw [List.pairwise_map]
    exact List.pairwise_lt_range.imp fun h => by simp only [Config.searchStep]; omega

/-- What a search over an ascending list finds: the start or a member with its value, above the start; no
value of the list is larger, and every earlier one is smaller (R196). -/
theorem foldl_considerOffset (m : Nat → NumVal) (l : List Nat) (b : Nat × NumVal)
    (h : l.Pairwise (· < ·)) :
    let r := l.foldl (considerOffset m) b
    (r = b ∨ r.1 ∈ l ∧ r.2 = m r.1 ∧ r.2.gt b.2 = true) ∧
    ∀ d ∈ l, (m d).gt r.2 = false ∧ (r ≠ b → d < r.1 → r.2.gt (m d) = true) := by
  induction l generalizing b with
  | nil => simp
  | cons a l ih =>
    rw [List.pairwise_cons] at h
    obtain ⟨h1, h2⟩ := ih (considerOffset m b a) h.2
    simp only [List.foldl_cons]
    generalize hr : l.foldl (considerOffset m) (considerOffset m b a) = r at h1 h2 ⊢
    unfold considerOffset at h1 h2
    by_cases hg : (m a).gt b.2 = true
    · simp only [hg, if_true] at h1 h2
      rcases h1 with rfl | ⟨k1, k2, k3⟩
      · refine ⟨.inr ⟨by simp, rfl, hg⟩, ?_⟩
        rintro d (_ | ⟨_, hd⟩)
        · exact ⟨NumVal.gt_self _, fun _ hlt => absurd hlt (lt_irrefl _)⟩
        · exact ⟨(h2 d hd).1, fun _ hlt => absurd hlt (not_lt.mpr (h.1 d hd).le)⟩
      · refine ⟨.inr ⟨List.mem_cons_of_mem _ k1, k2, NumVal.gt_trans k3 hg⟩, ?_⟩
        have hne : r ≠ (a, m a) := by rintro rfl; simp at k3
        rintro d (_ | ⟨_, hd⟩)
        · refine ⟨?_, fun _ _ => k3⟩
          rw [NumVal.gt_iff] at k3
          rw [NumVal.gt_eq_false_iff]
          exact k3.le
        · exact ⟨(h2 d hd).1, fun _ hlt => (h2 d hd).2 hne hlt⟩
    · simp only [hg, Bool.false_eq_true, if_false] at h1 h2
      have ha : (m a).place ≤ b.2.place := by simpa [NumVal.gt_iff] using hg
      rcases h1 with rfl | ⟨k1, k2, k3⟩
      · refine ⟨.inl rfl, ?_⟩
        rintro d (_ | ⟨_, hd⟩)
        · exact ⟨by simpa using hg, fun hn => absurd rfl hn⟩
        · exact ⟨(h2 d hd).1, fun hn => absurd rfl hn⟩
      · refine ⟨.inr ⟨List.mem_cons_of_mem _ k1, k2, k3⟩, ?_⟩
        have hne : r ≠ b := by rintro rfl; simp at k3
        have hk : b.2.place < r.2.place := (NumVal.gt_iff _ _).mp k3
        rintro d (_ | ⟨_, hd⟩)
        · exact ⟨(NumVal.gt_eq_false_iff _ _).mpr (ha.trans hk.le),
            fun _ _ => (NumVal.gt_iff _ _).mpr (ha.trans_lt hk)⟩
        · exact ⟨(h2 d hd).1, fun _ hlt => (h2 d hd).2 hne hlt⟩

/-- What the offset search finds, over the candidates of the recording (R196). -/
theorem searchOffset_spec (K : NumOps) (rom : RefTables) (r : List Sample) :
    let best := searchOffset K rom r
    let m := fun d => energyMax (symEnergy K rom r d)
    (best = (0, .zero) ∨ best.1 ∈ candidates r.length ∧ best.2 = m best.1 ∧ best.2.gt .zero = true) ∧
    ∀ d ∈ candidates r.length, (m d).gt best.2 = false ∧
      (best ≠ (0, .zero) → d < best.1 → best.2.gt (m d) = true) :=
  foldl_considerOffset _ _ _ (candidates_ascending _)

/-- The best offset is inside the recording and at most one symbol long. -/
theorem searchOffset_le (K : NumOps) (rom : RefTables) (r : List Sample) :
    (searchOffset K rom r).1 ≤ r.length ∧ (searchOffset K rom r).1 ≤ 1764 := by
  rcases (searchOffset_spec K rom r).1 with h | ⟨h, -⟩
  · simp [h]
  · rw [mem_candidates] at h; omega

/-- `RES_I` holds the best offset exactly. -/
theorem toNat_searchOffset (K : NumOps) (rom : RefTables) (r : List Sample) :
    (BitVec.ofNat 32 (searchOffset K rom r).1).toNat = (searchOffset K rom r).1 := by
  have := searchOffset_le K rom r
  rw [BitVec.toNat_ofNat, Nat.mod_eq_of_lt]
  omega

/-- `DEMODULATE` never fails (R198). -/
theorem demodulateBody_eq (K : NumOps) (s : State) : demodulateBody K s =
    ({ searchBody K s with bits := extractBits K s.rom s.recBuf (searchOffset K s.rom s.recBuf).1 }, .none) := by
  have h := searchOffset_le K s.rom s.recBuf
  simp only [demodulateBody, extractBody, startOperandOk, searchBody, toNat_searchOffset, h.1, decide_true, if_true]

/-- A correlation as a sum over the window's indices; a table that is too short counts as zeros. -/
theorem correlate_eq_sum (K : NumOps) (ref w : List NumVal) (acc : NumVal) :
    (w.zip ref).foldl (fun acc p => K.plus acc (K.times p.1 p.2)) acc =
    (List.range w.length).foldl
      (fun acc i => K.plus acc (K.times (w.getD i .zero) (ref.getD i .zero))) acc := by
  induction ref generalizing w acc with
  | nil =>
    have : ∀ l : List Nat, l.foldl (fun acc i =>
        K.plus acc (K.times (w.getD i .zero) (([] : List NumVal).getD i .zero))) acc = acc := by
      intro l
      induction l with
      | nil => rfl
      | cons a l _ => simp
    rw [this]
    simp
  | cons r ref ih =>
    cases w with
    | nil => rfl
    | cons x w =>
      rw [List.zip_cons_cons, List.foldl_cons, ih, List.length_cons, List.range_succ_eq_map,
        List.foldl_cons, List.foldl_map]
      rfl

/-- The window of a symbol that fits is whole (R192). -/
theorem length_symbolWindow (K : NumOps) {r : List Sample} {d : Nat} (h : d + 1764 ≤ r.length) :
    (symbolWindow K r d).length = 1764 := by
  rw [symbolWindow, List.length_map, List.length_take, List.length_drop, Nat.min_eq_left]
  show 1764 ≤ r.length - d
  omega

/-- Its elements are the normalised samples (R191, R192). -/
theorem getElem?_symbolWindow (K : NumOps) {r : List Sample} {d i : Nat} (h : d + 1764 ≤ r.length)
    (hi : i < 1764) : (symbolWindow K r d)[i]? = some (normalise K (r.getD (d + i) 0#16)) := by
  rw [symbolWindow, List.getElem?_map, List.getElem?_take, if_pos (show i < Config.symbolSamples from hi),
    List.getElem?_drop, List.getD_eq_getElem?_getD, List.getElem?_eq_getElem (by omega)]
  rfl

/-- A bit per whole window (R197). -/
@[simp] theorem length_extractBits (K : NumOps) (rom : RefTables) (r : List Sample) (p : Nat) :
    (extractBits K rom r p).length = (r.length - p) / 1764 := by
  simp [extractBits]

end Sys2Proof.Machine
end

