-- ==== Sys2Proof/Laws/FrameCodec.lean ====
section
/-! SUPPORT. Bytes to bits and back, and the fields of an encoded frame (spec 41_frame_codec.md R120, R121,
30_encoding.md R71, R74). -/

namespace Sys2Proof.Machine

@[simp] theorem length_byteBits (b : Byte) : (byteBits b).length = 8 := rfl

@[simp] theorem bytesToBits_nil : bytesToBits [] = [] := rfl

@[simp] theorem bytesToBits_cons (b : Byte) (bs : List Byte) :
    bytesToBits (b :: bs) = byteBits b ++ bytesToBits bs := rfl

@[simp] theorem bytesToBits_append (a b : List Byte) :
    bytesToBits (a ++ b) = bytesToBits a ++ bytesToBits b := by
  simp [bytesToBits]

@[simp] theorem length_bytesToBits (bytes : List Byte) :
    (bytesToBits bytes).length = 8 * bytes.length := by
  induction bytes with
  | nil => rfl
  | cons b bs ih => simp only [bytesToBits_cons, List.length_append, length_byteBits, ih, List.length_cons]; omega

/-- Eight bits spell the byte they came from. -/
theorem bitsByte_byteBits (b : Byte) :
    bitsByte (b.getLsbD 7) (b.getLsbD 6) (b.getLsbD 5) (b.getLsbD 4)
      (b.getLsbD 3) (b.getLsbD 2) (b.getLsbD 1) (b.getLsbD 0) = b := by
  revert b
  decide +kernel

/-- `BitsToBytes` is the inverse of `BytesToBits` (R121). -/
@[simp] theorem bitsToBytes_bytesToBits (bytes : List Byte) : bitsToBytes (bytesToBits bytes) = bytes := by
  induction bytes with
  | nil => rfl
  | cons b bs ih =>
    simp only [bytesToBits_cons, byteBits, List.cons_append, List.nil_append, bitsToBytes, ih,
      bitsByte_byteBits]

/-- The first bits of an encoding are the encoding of the first bytes. -/
theorem take_bytesToBits (n : Nat) (bytes : List Byte) :
    (bytesToBits bytes).take (8 * n) = bytesToBits (bytes.take n) := by
  induction bytes generalizing n with
  | nil => simp
  | cons b bs ih =>
    cases n with
    | zero => simp
    | succ n =>
      rw [bytesToBits_cons, show 8 * (n + 1) = (byteBits b).length + 8 * n by simp; omega,
        List.take_length_add_append, ih, List.take_succ_cons, bytesToBits_cons]

/-- Bits that fill whole bytes give that many bytes (R121). -/
theorem length_bitsToBytes {bits : List Bit} {n : Nat} (h : bits.length = 8 * n) :
    (bitsToBytes bits).length = n := by
  induction n generalizing bits with
  | zero => rw [List.length_eq_zero_iff.mp h]; rfl
  | succ n ih =>
    match bits, h with
    | _ :: _ :: _ :: _ :: _ :: _ :: _ :: _ :: rest, h =>
      simp only [bitsToBytes, List.length_cons]
      rw [ih]
      simp only [List.length_cons] at h
      omega

theorem byteBits_bitsByte : ∀ b7 b6 b5 b4 b3 b2 b1 b0 : Bit,
    byteBits (bitsByte b7 b6 b5 b4 b3 b2 b1 b0) = [b7, b6, b5, b4, b3, b2, b1, b0] := by
  decide +kernel

/-- `BytesToBits` is the inverse of `BitsToBytes` on whole bytes (R121). -/
theorem bytesToBits_bitsToBytes {bits : List Bit} {n : Nat} (h : bits.length = 8 * n) :
    bytesToBits (bitsToBytes bits) = bits := by
  induction n generalizing bits with
  | zero => rw [List.length_eq_zero_iff.mp h]; rfl
  | succ n ih =>
    match bits, h with
    | _ :: _ :: _ :: _ :: _ :: _ :: _ :: _ :: rest, h =>
      simp only [List.length_cons] at h
      simp only [bitsToBytes, bytesToBits_cons, byteBits_bitsByte, ih (bits := rest) (by omega),
        List.cons_append, List.nil_append]

theorem bigEndian_value (v : U16) : fieldValue (highByte v) (lowByte v) = v.toNat := by
  simp only [fieldValue, highByte, lowByte, BitVec.extractLsb'_toNat, Nat.shiftRight_zero]
  have := v.isLt
  omega

@[simp] theorem length_bigEndian (v : U16) : (bigEndian v).length = 2 := rfl

@[simp] theorem length_frameHead (m : List Byte) : (frameHead m).length = m.length + 2 := by
  simp [frameHead]; omega

@[simp] theorem length_frameBytes (m : List Byte) : (frameBytes m).length = m.length + 4 := by
  simp [frameBytes]

end Sys2Proof.Machine
end

