-- ==== Sys2Proof/Laws/Modulator.lean ====
section
/-! SUPPORT. What a tone, a bit, a bit sequence and a burst leave of the modulator's state, and the range of
the quantiser (spec 42_fsk_modulator.md R141 to R148). -/

namespace Sys2Proof.Machine

variable (K : NumOps)

@[simp] theorem length_toneValues (p : NumVal) (f n : Nat) : (toneValues K p f n).length = n := by
  unfold toneValues
  split <;> simp

@[simp] theorem sampleCount_symbol : sampleCount Config.symbolMs = 1764 := rfl

@[simp] theorem sampleCount_preamble : sampleCount Config.preambleMs = 11025 := rfl

@[simp] theorem sampleCount_silence : sampleCount Config.silenceMs = 2205 := rfl

@[simp] theorem sampleCount_end : sampleCount Config.endMs = 4410 := rfl

/-- A tone of no duration appends nothing and keeps the phase (R143, log 2). -/
@[simp] theorem playTone_no_duration (f : Nat) (s : State) : playTone K f 0 s = s := by
  simp [playTone, sampleCount, toneValues]

/-- Silence keeps the phase (R144, log 2). -/
@[simp] theorem playTone_silent_phase (ms : Nat) (s : State) : (playTone K 0 ms s).phase = s.phase := by
  simp

/-- A bit sequence changes only the phase and the working buffer (R145). -/
theorem foldl_playBit_keeps (bs : List Bit) (s : State) :
    ∃ p f, bs.foldl (playBit K) s = { s with phase := p, fbuf := f } := by
  induction bs generalizing s with
  | nil => exact ⟨_, _, rfl⟩
  | cons b bs ih =>
    obtain ⟨p, f, h⟩ := ih (playBit K s b)
    exact ⟨p, f, by rw [List.foldl_cons, h]; rfl⟩

/-- Each bit appends one symbol, and what was there stays (R75, R145). -/
theorem foldl_playBit_fbuf (bs : List Bit) (s : State) :
    ∃ l, (bs.foldl (playBit K) s).fbuf = s.fbuf ++ l ∧ l.length = 1764 * bs.length := by
  induction bs generalizing s with
  | nil => exact ⟨[], by simp⟩
  | cons b bs ih =>
    obtain ⟨l, h, k⟩ := ih (playBit K s b)
    refine ⟨toneValues K s.phase (if b then Config.freqOne else Config.freqZero) 1764 ++ l, ?_, ?_⟩
    · rw [List.foldl_cons, h, playBit, playTone_fbuf, sampleCount_symbol, List.append_assoc]
    · rw [List.length_append, length_toneValues, k, List.length_cons]; omega

/-- What a bit sequence does depends on the phase and the buffer alone. -/
theorem foldl_playBit_congr (bs : List Bit) {s t : State} (hf : s.fbuf = t.fbuf) (hp : s.phase = t.phase) :
    (bs.foldl (playBit K) s).fbuf = (bs.foldl (playBit K) t).fbuf ∧
    (bs.foldl (playBit K) s).phase = (bs.foldl (playBit K) t).phase := by
  induction bs generalizing s t with
  | nil => exact ⟨hf, hp⟩
  | cons b bs ih => apply ih <;> simp [playBit, hf, hp]

/-- A tone changes only the phase and the working buffer. -/
theorem playTone_keeps (f ms : Nat) {s t : State} (h : ∃ p b, t = { s with phase := p, fbuf := b }) :
    ∃ p b, playTone K f ms t = { s with phase := p, fbuf := b } := by
  obtain ⟨p, b, rfl⟩ := h
  exact ⟨_, _, rfl⟩

/-- A burst changes only the phase and the working buffer (R148). -/
theorem playBurst_keeps (s : State) : ∃ p f, playBurst K s = { s with phase := p, fbuf := f } := by
  have h : ∃ p b, playTone K 0 Config.silenceMs
      (playTone K Config.freqStart Config.preambleMs (clearModulator s)) =
        { s with phase := p, fbuf := b } :=
    playTone_keeps K _ _ (playTone_keeps K _ _ ⟨_, _, rfl⟩)
  obtain ⟨p, b, h⟩ := h
  obtain ⟨q, c, k⟩ := foldl_playBit_keeps K s.bits { s with phase := p, fbuf := b }
  refine playTone_keeps K _ _ ⟨q, c, ?_⟩
  rw [h, playBits, k]

/-- The same, with the two fields named. -/
theorem playBurst_eq (s : State) : playBurst K s =
    { s with phase := (playBurst K s).phase, fbuf := (playBurst K s).fbuf } := by
  obtain ⟨p, f, h⟩ := playBurst_keeps K s
  rw [h]

/-- What `BUILD_FRAME` changes (R148). -/
theorem buildBurst_eq (s : State) : buildBurst K s =
    { s with
      phase := (playBurst K s).phase, fbuf := (playBurst K s).fbuf
      pcm := (playBurst K s).fbuf.map (quantise K) } := by
  unfold buildBurst
  obtain ⟨p, f, h⟩ := playBurst_keeps K s
  rw [h]

@[simp] theorem toneValues_silent (p : NumVal) (n : Nat) : toneValues K p 0 n = List.replicate n .zero :=
  if_pos rfl

/-- The layout of a burst: start tone, silence, then the symbols and the end tone (R76). -/
theorem playBurst_fbuf (s : State) : ∃ l, (playBurst K s).fbuf =
    toneValues K .zero Config.freqStart 11025 ++ (List.replicate 2205 .zero ++ l) ∧
      l.length = 1764 * s.bits.length + 4410 := by
  obtain ⟨l, h, k⟩ := foldl_playBit_fbuf K s.bits
    (playTone K 0 Config.silenceMs (playTone K Config.freqStart Config.preambleMs (clearModulator s)))
  refine ⟨l ++ toneValues K (playBits K (playTone K 0 Config.silenceMs
    (playTone K Config.freqStart Config.preambleMs (clearModulator s)))).phase Config.freqEnd 4410, ?_, ?_⟩
  · rw [playBurst, playTone_fbuf, sampleCount_end]
    conv => lhs; arg 1; rw [playBits]
    rw [playTone_bits, playTone_bits, clearModulator_bits, h, playTone_fbuf, playTone_fbuf,
      clearModulator_fbuf, clearModulator_phase, sampleCount_preamble, sampleCount_silence,
      toneValues_silent, List.nil_append, List.append_assoc, List.append_assoc]
  · rw [List.length_append, length_toneValues, k]

/-- The length of a burst (R76). -/
theorem length_playBurst_fbuf (s : State) :
    (playBurst K s).fbuf.length = 17640 + 1764 * s.bits.length := by
  obtain ⟨l, h, k⟩ := playBurst_fbuf K s
  rw [h, List.length_append, List.length_append, length_toneValues, List.length_replicate, k]
  omega

/-- A burst depends on the bits alone (R152). -/
theorem playBurst_congr {s t : State} (h : s.bits = t.bits) :
    (playBurst K s).fbuf = (playBurst K t).fbuf ∧ (playBurst K s).phase = (playBurst K t).phase := by
  have := foldl_playBit_congr K t.bits
    (s := playTone K 0 Config.silenceMs (playTone K Config.freqStart Config.preambleMs (clearModulator s)))
    (t := playTone K 0 Config.silenceMs (playTone K Config.freqStart Config.preambleMs (clearModulator t)))
    rfl rfl
  simp only [playBurst, playBits, playTone_bits, clearModulator_bits, h, playTone_fbuf, playTone_phase, this,
    and_self]

theorem clampPcm_eq (y : NumVal) : clampPcm K y =
    if y.gt (K.num 32767) then K.num 32767
    else if (K.num (-32767)).gt y then K.num (-32767) else y := by
  have h : ¬ (K.num (-32767)).gt (K.num 32767) = true := by
    rw [NumVal.gt_num K (by decide) (by decide)]; decide
  unfold clampPcm
  by_cases k : y.gt (K.num 32767) = true <;> simp [Config.pcmMax, h, k]

/-- The clamp leaves a value whose truncation is a legal sample (R146). -/
theorem clampPcm_range (y : NumVal) : -32767 ≤ (clampPcm K y).trunc ∧ (clampPcm K y).trunc ≤ 32767 := by
  rw [clampPcm_eq]
  split
  · rw [K.num_small (by decide), NumVal.trunc_int]; omega
  split
  · rw [K.num_small (by decide), NumVal.trunc_int]; omega
  · rename_i h1 h2
    rw [Bool.not_eq_true, NumVal.gt_eq_false_iff, K.num_small (by decide)] at h1 h2
    exact ⟨NumVal.le_trunc (by decide) h2, NumVal.trunc_le (by decide) h1⟩

/-- No quantised sample wraps (R146, R51). -/
theorem quantise_toInt (v : NumVal) :
    (quantise K v).toInt = (clampPcm K (K.times v (K.num Config.pcmMax))).trunc := by
  have := clampPcm_range K (K.times v (K.num Config.pcmMax))
  rw [quantise, BitVec.toInt_ofInt, Int.bmod_eq_of_le] <;> omega

theorem quantise_range (v : NumVal) : -32767 ≤ (quantise K v).toInt ∧ (quantise K v).toInt ≤ 32767 := by
  rw [quantise_toInt]
  exact clampPcm_range K _

@[simp] theorem quantise_zero : quantise K .zero = 0#16 := by
  apply BitVec.eq_of_toInt_eq
  rw [quantise_toInt, NumOps.zero_times, clampPcm_eq, ← K.num_zero, if_neg, if_neg, K.num_zero]
  · rfl
  all_goals rw [NumVal.gt_num K (by decide) (by decide)]; decide

end Sys2Proof.Machine
end

