-- ==== Sys2Proof/Laws/Operands.lean ====
section
/-! SUPPORT. The operand checks as propositions (spec 60_exceptions.md R266). -/

namespace Sys2Proof.Machine

theorem toneOperandsOk_iff (f ms : Nat) : toneOperandsOk f ms = true ↔ f < 2 ^ 31 ∧ ms ≤ 3600000 := by
  simp [toneOperandsOk]

theorem windowOperandsOk_iff (a n f len : Nat) :
    windowOperandsOk a n f len = true ↔ n ≠ 0 ∧ a + n ≤ len ∧ f < 2 ^ 31 := by
  simp [windowOperandsOk, and_assoc]

theorem goertzelOperandsOk_iff (s : State) :
    goertzelOperandsOk s = true ↔
      s.opb.toNat ≠ 0 ∧ s.opa.toNat + s.opb.toNat ≤ s.recBuf.length ∧ s.opc.toNat < 2 ^ 31 :=
  windowOperandsOk_iff ..

theorem symbolOperandOk_iff (d len : Nat) : symbolOperandOk d len = true ↔ d + 1764 ≤ len := by
  simp [symbolOperandOk]

theorem startOperandOk_iff (p len : Nat) : startOperandOk p len = true ↔ p ≤ len := by
  simp [startOperandOk]

theorem messageLengthOk_iff (n : Nat) : messageLengthOk n = true ↔ n ≤ 65535 := by
  simp [messageLengthOk]

/-- The byte operand is `OPA` modulo 256 (R102). -/
theorem byteOperand_eq (s : State) : byteOperand s = BitVec.ofNat 8 (s.opa.toNat % 256) := by
  apply BitVec.eq_of_toNat_eq
  simp [byteOperand]

end Sys2Proof.Machine
end

