-- ==== Sys2Proof/Laws/PerInstr.lean ====
section
/-! SUPPORT. For every operation: its code is well formed, and the opcode table's word for it decodes to it
(spec 30_encoding.md R84 to R86). -/

namespace Sys2Proof.Laws.TableWord

/-- The code of `i` is not reserved, and read as a table word it is `i`. -/
def Statement (i : Instr) : Prop :=
  commandWellFormed (encode i) = true ∧ decodeTableWord 8 (encode i).toNat = some i

theorem crcInit : Statement .crcInit := ⟨rfl, rfl⟩
theorem crcByte : Statement .crcByte := ⟨rfl, rfl⟩
theorem crcRead : Statement .crcRead := ⟨rfl, rfl⟩
theorem crcBlock : Statement .crcBlock := ⟨rfl, rfl⟩
theorem frameEncode : Statement .frameEncode := ⟨rfl, rfl⟩
theorem frameDecode : Statement .frameDecode := ⟨rfl, rfl⟩
theorem modReset : Statement .modReset := ⟨rfl, rfl⟩
theorem tone : Statement .tone := ⟨rfl, rfl⟩
theorem modBits : Statement .modBits := ⟨rfl, rfl⟩
theorem buildFrame : Statement .buildFrame := ⟨rfl, rfl⟩
theorem encodeMessage : Statement .encodeMessage := ⟨rfl, rfl⟩
theorem transmit : Statement .transmit := ⟨rfl, rfl⟩
theorem goertzelPower : Statement .goertzelPower := ⟨rfl, rfl⟩
theorem toneDetect : Statement .toneDetect := ⟨rfl, rfl⟩
theorem symEnergy : Statement .symEnergy := ⟨rfl, rfl⟩
theorem offsetSearch : Statement .offsetSearch := ⟨rfl, rfl⟩
theorem bitExtract : Statement .bitExtract := ⟨rfl, rfl⟩
theorem demodulate : Statement .demodulate := ⟨rfl, rfl⟩
theorem receive : Statement .receive := ⟨rfl, rfl⟩

end Sys2Proof.Laws.TableWord
end

