-- ==== Sys2Proof/Laws/Receiver.lean ====
section
/-! SUPPORT. The exits of the receive machine in one record each, and what its parts leave unchanged (spec
45_receiver_fsm.md R222 to R229). -/

namespace Sys2Proof.Machine

/-- A capture read changes only the environment. -/
theorem readCapture_keeps (n : Nat) (s : State) :
    (readCapture n s).2 = { s with env := (readCapture n s).2.env } := by
  unfold readCapture
  split <;> rfl

/-- A capture read leaves the clock and the device's bookkeeping (R13). -/
theorem readCapture_env (n : Nat) (s : State) :
    (readCapture n s).2.env.now = s.env.now ∧
    (readCapture n s).2.env.capOpens = s.env.capOpens ∧
    (readCapture n s).2.env.capCloses = s.env.capCloses ∧
    (readCapture n s).2.env.played = s.env.played := by
  unfold readCapture
  split <;> exact ⟨rfl, rfl, rfl, rfl⟩

/-- `Fail(e)` while the device is held (R229, R268). -/
theorem rxFail_held {s : State} (e : ErrCode) (h : s.capOpen = true) : rxFail e s =
    { s with
      diagState := s.rxState, msg := [], capOpen := false, rxState := .failed
      env := { s.env with capCloses := s.env.capCloses + 1 }
      running := none, done := true, ok := decide (e = .none), err := e } := by
  simp [rxFail, releaseCapture, h, closeCapture, endOp]

/-- `Succeed()` (R228, R268). -/
theorem rxSucceed_eq (s : State) : rxSucceed s =
    { s with
      capOpen := false, rxState := .success
      env := { s.env with capCloses := s.env.capCloses + 1 }
      running := none, done := true, ok := true, err := .none } := rfl

/-- What follows the deadline test (R222). -/
theorem beforeDeadline_eq (late early : State → State) (s : State) : beforeDeadline late early s =
    if s.deadline ≤ (readClock s).1 then late (readClock s).2 else early (readClock s).2 := rfl

/-- The result of a capture read decides what follows it (R222). -/
theorem withRead_none {n : Nat} {use : List Sample → State → State} {s t : State}
    (h : readCapture n s = (none, t)) : withRead n use s = rxFail .deviceError t := by
  rw [withRead, h]

theorem withRead_some {n : Nat} {use : List Sample → State → State} {s t : State} {w : List Sample}
    (h : readCapture n s = (some w, t)) : withRead n use s = use w t := by
  rw [withRead, h]

/-- A detection needs a full window whose power is above the threshold (R222, R225). -/
theorem detects_iff (P : Params) (size f : Nat) (w : List Sample) : detects P size f w = true ↔
    w.length = size ∧ (goertzelPower P.num w f).gt (powerThreshold P) = true := by
  simp [detects, aboveThreshold]

/-- With the default `REC_CAPACITY` a recording always fits (R225: "the model has no capacity"). -/
theorem recordingFits_reference (K : NumOps) (x : NumVal) (slack n : Nat) :
    recordingFits (Config.reference K x slack) n = true := rfl

/-- A recording fits exactly if it is within the capacity (R58). -/
theorem recordingFits_iff (P : Params) (n : Nat) :
    recordingFits P n = true ↔ ∀ cap, P.recCapacity = some cap → n ≤ cap := by
  unfold recordingFits
  split <;> simp [*]

/-- A cut recording is within the capacity (R58). -/
theorem length_cutRecording_le {P : Params} {cap : Nat} (h : P.recCapacity = some cap) (r : List Sample) :
    (cutRecording P r).length ≤ cap := by
  rw [cutRecording, h]
  exact List.length_take_le ..

/-- `FRAME_DECODE` writes the message, the CRC register and three diagnostics (R124, R127). -/
theorem frameDecode_keeps (s : State) : (frameDecode s).1 =
    { s with
      crc := (frameDecode s).1.crc, msg := (frameDecode s).1.msg
      diagNBits := s.bits.length
      diagCrcCalc := (frameDecode s).1.diagCrcCalc, diagCrcRx := (frameDecode s).1.diagCrcRx } := by
  unfold frameDecode frameCheck
  dsimp only
  repeat' split
  all_goals rfl

/-- Its error outcomes, each without a message, and the length of a message it delivers (R124, R127). -/
theorem frameDecode_outcome (s : State) :
    ((frameDecode s).2 = .none ∧ 1 ≤ (frameDecode s).1.msg.length ∧ (frameDecode s).1.msg.length ≤ 8192) ∨
    ((frameDecode s).2 = .insufficientBits ∨ (frameDecode s).2 = .invalidLength ∨
      (frameDecode s).2 = .crcMismatch) ∧ (frameDecode s).1.msg = [] := by
  unfold frameDecode
  dsimp only
  split
  · exact .inr ⟨.inl rfl, rfl⟩
  split
  · exact .inr ⟨.inr (.inl rfl), rfl⟩
  split
  · exact .inr ⟨.inl rfl, rfl⟩
  unfold frameCheck
  dsimp only
  split
  · rename_i h0 h1 h2 h3
    left
    have hl : (s.bits.take (frameBitCount (lengthField s.bits))).length = 8 * (lengthField s.bits + 4) := by
      rw [List.length_take]
      simp only [frameBitCount] at *
      omega
    refine ⟨rfl, ?_⟩
    simp only [List.length_take, List.length_drop, length_bitsToBytes hl, Config.maxLen] at *
    omega
  · exact .inr ⟨.inr (.inr rfl), rfl⟩

/-- The step in `DEMODULATING` in one record (R226). -/
theorem rxDemodulate_eq (K : NumOps) (s : State) : rxDemodulate K s =
    let best := searchOffset K s.rom s.recBuf
    let b := extractBits K s.rom s.recBuf best.1
    let u := { s with
      resI := BitVec.ofNat 32 best.1, resN0 := best.2, bits := b, diagNBits := b.length }
    if b.length < 32 then rxFail .insufficientBits u else { u with rxState := .validating } := by
  rw [rxDemodulate, demodulateBody_eq]
  rfl

end Sys2Proof.Machine
end

