-- ==== Sys2Proof/Laws/Step.lean ====
section
/-! SUPPORT. What one step can be, said once, and what a running operation's step is (spec 10_state.md R36,
20_memory.md R56). -/

namespace Sys2Proof.Machine

/-- A running operation that the host lets go on takes its next step (R56). -/
theorem step_running {s : State} {r : Running} (h : s.running = some r) (w : s.hostWaits = true) :
    step s = .next (advance Config.params r s) := by
  unfold step turn State.hostWaits at *
  rw [h]
  cases hh : s.host with
  | nil => rfl
  | cons a rest =>
    rw [hh] at w
    simp only [w, if_true, goOn_eq]

/-- A code in `CMD` starts its operation, or is refused, when none is running (R36, R86). -/
theorem step_command {s : State} {c : Byte} (h : s.running = none) (k : s.cmd = some c) :
    step s = startCommand c { s with cmd := none } := by
  simp only [step, turn, h, k]

/-- The host acts when no operation is running and no code is pending (R36). -/
theorem step_host {s : State} {a : HostAct} {rest : List HostAct} (h : s.running = none)
    (k : s.cmd = none) (l : s.host = a :: rest) :
    step s = .next (hostAction a.op { s with host := rest }) := by
  simp only [step, turn, h, k, l, goOn_eq]

/-- What the host does while an operation is running (R36, U12). -/
theorem step_hostBusy {s : State} {a : HostAct} {rest : List HostAct} (h : s.running ≠ none)
    (l : s.host = a :: rest) (w : a.patient = false) :
    step s = hostActionBusy a.op { s with host := rest } := by
  obtain ⟨r, hr⟩ := Option.ne_none_iff_exists'.mp h
  have : turn s = .hostBusy a.op rest := by simp [turn, hr, l, w]
  rw [step, this]

/-- Everything a step that goes on can be. -/
theorem step_cases {s t : State} (h : step s = .next t) :
    (∃ r, s.running = some r ∧ s.hostWaits = true ∧ t = advance Config.params r s) ∨
    (∃ a rest, s.running ≠ none ∧ s.host = a :: rest ∧ a.op ≠ .reset ∧ t = { s with host := rest }) ∨
    (∃ c, s.running = none ∧ s.cmd = some c ∧ startCommand c { s with cmd := none } = .next t) ∨
    (∃ a rest, s.running = none ∧ s.cmd = none ∧ s.host = a :: rest ∧
      t = hostAction a.op { s with host := rest }) ∨
    (s.running = none ∧ s.cmd = none ∧ s.host = [] ∧ t = s) := by
  obtain hr | ⟨r, hr⟩ := Option.eq_none_or_eq_some s.running
  · obtain hc | ⟨c, hc⟩ := Option.eq_none_or_eq_some s.cmd
    · obtain hh | ⟨a, rest, hh⟩ : s.host = [] ∨ ∃ a rest, s.host = a :: rest := by
        cases s.host <;> simp
      · simp only [step, turn, hr, hc, hh, goOn_eq, Host.Outcome.next.injEq] at h
        exact .inr (.inr (.inr (.inr ⟨hr, hc, hh, h.symm⟩)))
      · rw [step_host hr hc hh, Host.Outcome.next.injEq] at h
        exact .inr (.inr (.inr (.inl ⟨a, rest, hr, hc, hh, h.symm⟩)))
    · rw [step_command hr hc] at h
      exact .inr (.inr (.inl ⟨c, hr, hc, h⟩))
  · by_cases hw : s.hostWaits = true
    · rw [step_running hr hw, Host.Outcome.next.injEq] at h
      exact .inl ⟨r, hr, hw, h.symm⟩
    · obtain hh | ⟨a, rest, hh⟩ : s.host = [] ∨ ∃ a rest, s.host = a :: rest := by
        cases s.host <;> simp
      · simp [State.hostWaits, hh] at hw
      · simp only [State.hostWaits, hh, Bool.not_eq_true] at hw
        rw [step_hostBusy (by simp [hr]) hh hw] at h
        right; left
        refine ⟨a, rest, by simp [hr], hh, ?_, ?_⟩
        · intro e; rw [e] at h; simp [hostActionBusy] at h
        · cases ho : a.op <;> rw [ho] at h <;> simp [hostActionBusy] at h <;> exact h.symm

/-- A host write of `REC` that fits is stored whole (R36). -/
theorem storeRec_fits {P : Params} {v : List Sample} (s : State) (h : recordingFits P v.length = true) :
    storeRec P v s = { s with recBuf := v } := by
  rw [storeRec, if_pos h]

/-- A host write of `REC` changes the recording, and may draw one free value. -/
theorem storeRec_keeps (P : Params) (v : List Sample) (s : State) : storeRec P v s =
    { s with
      recBuf := (storeRec P v s).recBuf
      env := { s.env with draws := (storeRec P v s).env.draws } } := by
  unfold storeRec
  split <;> rfl

/-- Whatever is written, `REC_LEN` stays within the capacity (R58). -/
theorem length_storeRec_le {P : Params} {cap : Nat} (h : P.recCapacity = some cap) (v : List Sample)
    (s : State) : (storeRec P v s).recBuf.length ≤ cap := by
  unfold storeRec
  split
  · exact (recordingFits_iff P v.length).mp ‹_› cap h
  · exact length_cutRecording_le h _

/-- The decoder and the encoder agree on every code that names an operation (R86). -/
theorem encode_of_decode {c : Byte} {i : Instr} (h : decode c = .ok i) : encode i = c := by
  revert c
  cases i <;> decide

end Sys2Proof.Machine
end

