-- ==== Sys2Proof/Tests/Slice0.lean ====
section
/-! SUPPORT. The model's own tests, each expected value from the spec (95_test_vectors.md, or worked by hand
from the rule named), and for every statement with hypotheses a state that meets them. -/

-- One theorem after the other: many kernel evaluations at once need a thread, and its stack, each.
set_option Elab.async false

namespace Sys2Proof.Tests

open Sys2Proof Sys2Proof.Machine Sys2Proof.Rules

/-! ## Small states -/

/-- The state after reset, without the tables' contents. -/
def base : State := { State.reset with rom := ⟨[], [], [], []⟩ }

/-- The next state of an outcome; `base` where there is none. -/
def after (o : Host.Outcome State Fault Refusal) : State :=
  match o with
  | .next t => t
  | _ => base

/-- An exact `NUM` for small values, with angles counted in half turns (`PI` is 1): it evaluates the spec's
hand-checked Goertzel vectors exactly. -/
def halfTurns : NumOps where
  wide z := ⟨z⟩
  add a b := ⟨a.place + b.place⟩
  sub a b := ⟨a.place - b.place⟩
  mul a b := ⟨a.place * b.place⟩
  div a b := ⟨a.place / b.place⟩
  sin _ := ⟨1 / 2⟩
  cos a := if a.place = 0 then ⟨1⟩ else if a.place = 1 then ⟨-1⟩ else ⟨0⟩
  sqrt a := a
  pi := ⟨1⟩

/-- Parameters for tests: threshold 20, skip 3, no capacity. -/
def params : Params where
  num := halfTurns
  threshold := ⟨20⟩
  startSkip := 3
  txSlackMs := 0
  recCapacity := none

/-- The 40 bits of the frame of "A" (95_test_vectors.md V17). -/
def bitsA : List Bit := bytesToBits [0x00#8, 0x01#8, 0x41#8, 0xA7#8, 0x48#8]

/-- A receive in progress, with the device held. -/
def receivingState (x : RxState) : State :=
  { base with rxState := x, capOpen := true, running := some .receive }

/-! ## Well-formedness: each check refuses an ill-formed word (R86) -/

theorem test_wellformed_unit_zero : commandUnitOk 0x00#8 = false ∧ commandWellFormed 0x00#8 = false := by decide
theorem test_wellformed_unit_seven : commandUnitOk 0x70#8 = false ∧ commandWellFormed 0x70#8 = false := by decide
theorem test_wellformed_fn : commandFnOk 0x14#8 = false ∧ commandWellFormed 0x14#8 = false := by decide
theorem test_wellformed_count :
    ((List.range 256).filter fun c => commandWellFormed (BitVec.ofNat 8 c)).length = 19 := by decide +kernel

/-! ## Decoding: every code of R85, written out bit by bit: unit in bits 7:4, function in bits 3:0 -/

theorem test_decode_crc : decode 0b00010000#8 = .ok .crcInit ∧ decode 0b00010001#8 = .ok .crcByte ∧
    decode 0b00010010#8 = .ok .crcRead ∧ decode 0b00010011#8 = .ok .crcBlock := by decide
theorem test_decode_frame : decode 0b00100000#8 = .ok .frameEncode ∧ decode 0b00100001#8 = .ok .frameDecode := by decide
theorem test_decode_modulator : decode 0b00110000#8 = .ok .modReset ∧ decode 0b00110001#8 = .ok .tone ∧
    decode 0b00110010#8 = .ok .modBits ∧ decode 0b00110011#8 = .ok .buildFrame ∧
    decode 0b00110100#8 = .ok .encodeMessage ∧ decode 0b00110101#8 = .ok .transmit := by decide
theorem test_decode_goertzel : decode 0b01000000#8 = .ok .goertzelPower ∧ decode 0b01000001#8 = .ok .toneDetect := by decide
theorem test_decode_demodulator : decode 0b01010000#8 = .ok .symEnergy ∧ decode 0b01010001#8 = .ok .offsetSearch ∧
    decode 0b01010010#8 = .ok .bitExtract ∧ decode 0b01010011#8 = .ok .demodulate := by decide
theorem test_decode_receiver : decode 0b01100000#8 = .ok .receive := by decide
theorem test_decode_reserved : decode 0b00010100#8 = .error (.reservedCode 0x14#8) ∧
    decode 0b01010100#8 = .error (.reservedCode 0x54#8) ∧ decode 0b11111111#8 = .error (.reservedCode 0xFF#8) := by decide
theorem test_decode_table_word : decodeTableWord 8 0x21 = some .frameDecode ∧ decodeTableWord 8 0x77 = none := by decide

/-! ## The CRC generator (95_test_vectors.md V1 to V14) -/

theorem test_crc_init : (after (exec .crcInit { base with crc := 0#16 })).crc = 0xFFFF#16 := by decide
theorem test_crc_byte : (after (exec .crcByte { base with opa := 0xABCDEF00#32 })).crc = 0xE1F0#16 := by decide
theorem test_crc_byte_step : crcByte 0xE1F0#16 0x02#8 = 0x3D4D#16 := by decide
theorem test_crc_read : (after (exec .crcRead { base with crc := 0xE1F0#16 })).resI = 0x0000E1F0#32 := by decide
theorem test_crc_block : (after (exec .crcBlock { base with msg := [0x00#8, 0x02#8, 0x48#8, 0x49#8] })).resI = 0xB728#32 := by decide +kernel
theorem test_crc_check_value :
    crc16 [0x31#8, 0x32#8, 0x33#8, 0x34#8, 0x35#8, 0x36#8, 0x37#8, 0x38#8, 0x39#8] = 0x29B1#16 := by decide +kernel

/-! ## The frame codec (V15 to V18) -/

theorem test_frame_encode : (after (exec .frameEncode { base with msg := [0x48#8, 0x49#8] })).bits =
    bytesToBits [0x00#8, 0x02#8, 0x48#8, 0x49#8, 0xB7#8, 0x28#8] := by decide +kernel
theorem test_frame_encode_empty : (after (exec .frameEncode base)).bits =
    [false, false, false, false, false, false, false, false, false, false, false, false, false, false, false, false,
     false, false, false, true, true, true, false, true, false, false, false, false, true, true, true, true] := by decide +kernel
theorem test_frame_decode : (after (exec .frameDecode { base with bits := bitsA ++ [true, false, true] })).msg = [0x41#8] := by decide +kernel
/-- V18 row 11: "HI" with bit 20 flipped. -/
theorem test_frame_decode_crc :
    let t := after (exec .frameDecode { base with bits := bytesToBits [0x00#8, 0x02#8, 0x40#8, 0x49#8, 0xB7#8, 0x28#8] })
    t.err = .crcMismatch ∧ t.diagCrcRx = 0xB728#16 ∧ t.diagCrcCalc = 0x3E81#16 ∧ t.diagNBits = 48 := by decide +kernel

/-! ## The modulator (V22, V22b, V28) -/

theorem test_sample_count : (sampleCount 1, sampleCount 7, sampleCount 3600000) = (44, 308, 158760000) := by decide
theorem test_quantise : ((quantise halfTurns ⟨1 / 2⟩).toInt, (quantise halfTurns ⟨-1 / 2⟩).toInt,
    (quantise halfTurns ⟨-2⟩).toInt, (quantise halfTurns ⟨-1 / 100000⟩).toInt) = (16383, -16383, -32767, 0) := by decide +kernel
theorem test_mod_reset : (after (exec .modReset { base with phase := ⟨1⟩, fbuf := [⟨1⟩] })).fbuf = [] ∧
    (after (exec .modReset { base with phase := ⟨1⟩ })).phase = ⟨0⟩ := by decide
/-- V28: `TONE 5, 3600001`. -/
theorem test_tone_range : (after (exec .tone { base with opa := 5#32, opb := 3600001#32 })).err = .operandRange := by decide
/-- `TONE 0, 1` from a phase that is not 0: 44 exact zeros (R144). -/
theorem test_tone_silence : (toneBody halfTurns { base with opb := 1#32, phase := ⟨7⟩ }).1.fbuf = List.replicate 44 ⟨0⟩ := by decide +kernel
/-- A 1 bit is a 3000 Hz tone: its angle after one symbol is 120 cycles, 240 half turns (R145, R7). -/
theorem test_mod_bits : (playBits halfTurns { base with bits := [true] }).phase = ⟨240⟩ ∧
    (playBits halfTurns { base with bits := [false] }).phase = ⟨160⟩ := by decide +kernel
/-- The phase after a burst of no bits is 1500 cycles (R148, V26). -/
theorem test_build_frame : (playBurst halfTurns base).phase = ⟨3000⟩ := by decide +kernel
theorem test_encode_message_range : (encodeBurst halfTurns { base with msg := List.replicate 65536 0#8 }).2 = .operandRange := by
  have h : ¬ messageLengthOk (List.replicate 65536 (0#8 : Byte)).length = true := by
    rw [messageLengthOk_iff, List.length_replicate]; decide
  have k : frameEncode { base with msg := List.replicate 65536 0#8 } =
      ({ base with msg := List.replicate 65536 0#8 }, .operandRange) := if_neg h
  rw [encodeBurst, k]
theorem test_transmit_refused :
    let t := after (exec .transmit { base with pcm := [1#16], env := { Env.start with plays := [false] } })
    t.err = .deviceError ∧ t.running = none ∧ t.env.played = [] := by decide
theorem test_transmit_sleeps :
    (startTransmit params { base with pcm := [1#16], env := { Env.start with plays := [true], times := [2] } }).running =
      some (.transmit (2 + 1 / 44100)) := by decide +kernel

/-! ## The Goertzel detector (V30 to V32f) -/

/-- V32: the bin is 1 and the power 37. -/
theorem test_goertzel : (powerBody params { base with
    recBuf := [3#16, BitVec.ofInt 16 (-1), 2#16, 5#16], opb := 4#32, opc := 11025#32 }).1.resN0 = ⟨37⟩ := by decide +kernel
/-- V32d: the most negative sample enters as −32768. -/
theorem test_goertzel_extremes : goertzelPower halfTurns
    [32767#16, 0x8000#16, 32767#16, 0x8000#16, 32767#16, 0x8000#16, 32767#16, 0x8000#16] 22050 = ⟨68717379600⟩ := by decide +kernel
theorem test_bin_index : (binIndex 5512 4000, binIndex 2205 5000, binIndex 4 5512, binIndex 4 5513, binIndex 2 11025) =
    (500, 250, 0, 1, 1) := by decide
/-- V31 and R173: power 16 is not above 20, and 16 is not above 16. -/
theorem test_tone_detect : (detectBody params { base with recBuf := [1#16, 1#16, 1#16, 1#16], opb := 4#32 }).1.resI = 0#32 ∧
    (detectBody { params with threshold := ⟨16⟩ } { base with
      recBuf := [1#16, 1#16, 1#16, 1#16], opb := 4#32 }).1.resI = 0#32 ∧
    (detectBody { params with threshold := ⟨15⟩ } { base with
      recBuf := [1#16, 1#16, 1#16, 1#16], opb := 4#32 }).1.resI = 1#32 := by decide +kernel

/-! ## The demodulator (V39, V40, and by hand) -/

theorem test_sym_energy_range : (after (exec .symEnergy { base with recBuf := [0#16], opa := 0#32 })).err = .operandRange := by decide
/-- Equal energies give bit 0 (R195, R197). -/
theorem test_energy_tie : energyBit (⟨2⟩, ⟨2⟩) = false ∧ energyBit (⟨2⟩, ⟨3⟩) = true := by decide +kernel
/-- V39: how many candidates a recording of each length has. -/
theorem test_candidates : ([0, 1763, 1764, 1767, 1768, 3527, 3528, 4000].map fun n => (candidates n).length) =
    [0, 0, 1, 1, 2, 441, 442, 442] := by decide +kernel
theorem test_search_empty : (after (exec .offsetSearch { base with resI := 9#32 })).resI = 0#32 := by decide
theorem test_extract_range : (after (exec .bitExtract { base with opa := 1#32 })).err = .operandRange ∧
    (after (exec .bitExtract { base with bits := [true] })).bits = [] := by decide
theorem test_demodulate_empty : (after (exec .demodulate { base with bits := [true] })).bits = [] := by decide
theorem test_normalise : normalise halfTurns 0x8000#16 = ⟨-1⟩ := by decide +kernel

/-! ## The receive machine (45_receiver_fsm.md, P4) -/

theorem test_receive_entry :
    let t := after (exec .receive { base with env := { Env.start with opens := [true], times := [5] } })
    t.rxState = .awaitStart ∧ t.deadline = 35 ∧ t.capOpen = true := by decide +kernel
theorem test_receive_no_device :
    let t := after (exec .receive { base with env := { Env.start with opens := [false], times := [5] } })
    t.rxState = .failed ∧ t.err = .deviceError ∧ t.diagState = .idle ∧ t.env.capCloses = 0 := by decide +kernel
/-- R222: `≥`, before any read. -/
theorem test_receive_deadline :
    let t := receiveStep params { receivingState .awaitStart with deadline := 1, env := { Env.start with times := [1], reads := [.error] } }
    t.err = .timeout ∧ t.diagState = .awaitStart ∧ t.env.reads = [.error] ∧ t.statusByte = 0x62#8 := by decide +kernel
theorem test_receive_skip :
    let t := receiveStep params { receivingState .awaitStart with
      deadline := 1, skipLeft := 3, env := { Env.start with times := [0], reads := [.ready 9], capture := [1#16, 2#16, 3#16, 4#16] } }
    t.rxState = .recording ∧ t.skipLeft = 0 ∧ t.env.capture = [4#16] := by decide +kernel
theorem test_receive_best_effort :
    (receiveStep params { receivingState .recording with recBuf := [1#16], env := { Env.start with times := [0] } }).rxState = .demodulating := by decide +kernel
/-- R225: a short read is appended, and is no detection window. -/
theorem test_receive_short_read :
    let t := receiveStep params { receivingState .recording with
      deadline := 1, env := { Env.start with times := [0], reads := [.ready 2], capture := [1#16, 2#16, 3#16] } }
    t.recBuf = [1#16, 2#16] ∧ t.rxState = .recording := by decide +kernel
theorem test_receive_validates :
    let t := receiveStep params { receivingState .validating with bits := bitsA }
    t.rxState = .success ∧ t.msg = [0x41#8] ∧ t.statusByte = 0x56#8 ∧ t.env.capCloses = 1 := by decide +kernel
/-- A full window whose power is above the threshold is a detection; the same window one short is not. -/
theorem test_detects : detects { params with threshold := ⟨15⟩ } 4 0 [1#16, 1#16, 1#16, 1#16] = true ∧
    detects { params with threshold := ⟨15⟩ } 5 0 [1#16, 1#16, 1#16, 1#16] = false := by decide +kernel

/-! ## The host's side -/

theorem test_step_runs_command :
    (after (step (base.withFetchWord 8 0x12))).resI = 0xFFFF#32 ∧ (after (step (base.withFetchWord 8 0x12))).cmd = none := by decide
theorem test_step_reserved : (after (step (base.withFetchWord 8 0x77))).statusByte = 0x02#8 ∧
    readReg (after (step (base.withFetchWord 8 0x77))) 5 = some (.byte 6#8) := by decide
theorem test_length_write :
    (after (step { base with msg := [7#8, 8#8], host := [⟨true, .writeMsgLen 1#32⟩] })).msg = [7#8] := by decide +kernel

/-- R8, D9: the default skip is the rest of the preamble and the silence. -/
theorem test_default_parameters :
    (Config.reference halfTurns ⟨20⟩ 0).startSkip = (11025 - 5512) + 2205 ∧
    (Config.reference halfTurns ⟨20⟩ 0).recCapacity = none := by decide

/-- R58: a host write beyond a capacity of 2 does not make `REC` longer than 2. -/
theorem test_store_rec :
    (storeRec { params with recCapacity := some 2 } [1#16, 2#16] base).recBuf = [1#16, 2#16] ∧
    (storeRec { params with recCapacity := some 2 } [1#16, 2#16, 3#16] base).recBuf.length ≤ 2 :=
  ⟨rfl, length_storeRec_le rfl _ _⟩

/-! ## States that meet the hypotheses of the statements -/

theorem witness_DecodeEncodeAgree : Instr.receive.wellFormed = true := by decide
theorem witness_DecodeRefusesReservedCodes :
    commandWellFormed 0x10#8 = true ∧ commandWellFormed 0x60#8 = true ∧
    commandWellFormed 0x0F#8 = false ∧ commandWellFormed 0x61#8 = false := by decide
theorem witness_StepRunsDecodedCommand :
    let s := { base with cmd := some 0x60#8 }
    s.running = none ∧ s.cmd = some 0x60#8 ∧ decode 0x60#8 = .ok .receive := by decide
theorem witness_ReservedCommandChangesOnlyStatus :
    let s := { base with cmd := some 0x61#8 }
    s.running = none ∧ s.cmd = some 0x61#8 ∧ commandWellFormed 0x61#8 = false := by decide
theorem witness_HostWritesTakeEffectWhenIdle :
    base.running = none ∧ base.cmd = none ∧
    ∀ a : HostOp, ({ base with host := [⟨true, a⟩] } : State).host = ⟨true, a⟩ :: [] := ⟨rfl, rfl, fun _ => rfl⟩
/-- The premise on the capacity holds of the shortest writes whatever the capacity is. -/
theorem witness_HostWrites_capacity :
    (∀ cap, Config.params.recCapacity = some cap → ([] : List Sample).length ≤ cap) ∧
    (∀ cap, Config.params.recCapacity = some cap → (0#32).toNat ≤ cap) :=
  ⟨fun _ _ => Nat.zero_le _, fun _ _ => Nat.zero_le _⟩
theorem witness_LengthWritesKeepTheElements :
    let s := { base with msg := [1#8], bits := [true], recBuf := [1#16], host := [⟨false, .writeMsgLen 2#32⟩] }
    s.running = none ∧ s.cmd = none ∧ s.host = ⟨false, .writeMsgLen 2#32⟩ :: [] ∧ 0 < (2#32).toNat ∧ 0 < s.msg.length ∧
    ({ s with host := [⟨false, .writeBitsLen 2#32⟩] }).host = ⟨false, .writeBitsLen 2#32⟩ :: [] ∧ 0 < s.bits.length ∧
    ({ s with host := [⟨false, .writeRecLen 2#32⟩] }).host = ⟨false, .writeRecLen 2#32⟩ :: [] ∧ 0 < s.recBuf.length := by decide
theorem witness_HostWritesWhileBusyAreRefused :
    let s := { receivingState .awaitStart with host := [⟨false, .writeCmd 0x60#8⟩] }
    s.busy = true ∧ s.host = ⟨false, .writeCmd 0x60#8⟩ :: [] ∧ (HostOp.writeCmd 0x60#8) ≠ .reset := by decide
theorem witness_ResetEventRestoresResetState :
    let s := { base with crc := 1#16, host := [⟨false, .reset⟩] }
    s.host = ⟨false, .reset⟩ :: [] ∧ s.running = none ∧ s.cmd = none ∧
    ({ receivingState .awaitStart with host := [⟨false, .reset⟩] }).busy = true := by decide
theorem witness_OperandRange_message :
    65535 < ({ base with msg := List.replicate 65536 0#8 } : State).msg.length := by
  show 65535 < (List.replicate 65536 (0#8 : Byte)).length
  rw [List.length_replicate]; decide
theorem witness_OperandRange_scalars :
    2 ^ 31 ≤ (0x80000000#32).toNat ∧ 3600000 < (3600001#32).toNat ∧
    ({ base with opb := 0#32 }).opb.toNat = 0 ∧
    ({ base with opb := 1#32 }).recBuf.length < ({ base with opb := 1#32 }).opa.toNat + 1 ∧
    ({ base with recBuf := [0#16] }).recBuf.length < (0#32).toNat + 1764 ∧
    ({ base with opa := 1#32 }).recBuf.length < ({ base with opa := 1#32 }).opa.toNat := by decide
theorem witness_AtomicOperations : atomic .crcInit ∧ atomic .demodulate := by
  constructor <;> exact ⟨by decide, by decide⟩
theorem witness_OnlyListedOperationsWrite :
    exec .crcInit { base with crc := 0#16 } = .next (after (exec .crcInit { base with crc := 0#16 })) ∧
    (after (exec .crcInit { base with crc := 0#16 })).crc ≠ 0#16 ∧
    (after (exec .modReset { base with phase := ⟨1⟩ })).phase ≠ ⟨1⟩ ∧
    (after (exec .modReset { base with fbuf := [⟨1⟩] })).fbuf ≠ [⟨1⟩] ∧
    (after (exec .frameDecode { base with msg := [1#8] })).msg ≠ [1#8] ∧
    (after (exec .demodulate { base with bits := [true] })).bits ≠ [true] ∧
    (after (exec .crcRead base)).resI ≠ 0#32 ∧
    (after (exec .offsetSearch { base with resN0 := ⟨1⟩ })).resN0 ≠ ⟨1⟩ := by
  refine ⟨rfl, by decide, by decide, by decide, by decide, by decide, by decide, by decide⟩
theorem witness_OnlyListedOperationsWrite_receive :
    let s := { base with recBuf := [1#16], env := { Env.start with opens := [true], times := [1] } }
    (after (exec .receive s)).recBuf ≠ s.recBuf ∧ (after (exec .receive s)).rxState ≠ s.rxState ∧
    (after (exec .receive s)).env ≠ s.env ∧
    (after (exec .frameDecode { base with bits := [true] })).diagNBits ≠ 0 := by decide +kernel
theorem witness_OnlyListedOperationsWrite_pcm :
    (after (exec .buildFrame base)).pcm ≠ base.pcm := by
  have e : (after (exec .buildFrame base)).pcm =
      (playBurst Config.params.num base).fbuf.map (quantise Config.params.num) := by
    simp only [exec, execBuildFrame, buildBurst_eq, goOn_eq, conclude_eq, after, endOp_pcm]
  rw [e]
  intro k
  have l := congrArg List.length k
  rw [List.length_map, length_playBurst_fbuf, show base.pcm = [] from rfl, List.length_nil] at l
  omega
/-- A running operation, one step that the host waits for, and one in which a refused write is used up. -/
theorem witness_OnlyListedOperationsWrite_running :
    let s := { receivingState .validating with msg := [1#8], bits := bitsA }
    let u := { receivingState .demodulating with bits := [true], resI := 1#32, resN0 := ⟨1⟩ }
    s.running = some .receive ∧ step s = .next (after (step s)) ∧ (after (step s)).crc ≠ s.crc ∧
    (after (step s)).diagCrcRx ≠ s.diagCrcRx ∧ (after (step s)).diagNBits ≠ s.diagNBits ∧
    (after (step s)).msg ≠ s.msg ∧ (after (step s)).capOpen ≠ s.capOpen ∧
    (after (step u)).bits ≠ u.bits ∧ (after (step u)).resI ≠ u.resI ∧ (after (step u)).resN0 ≠ u.resN0 ∧
    (after (step { s with host := [⟨false, .writeOpa 1#32⟩] })).host = [] := by
  intro s u
  have e : step s = .next (advance Config.params .receive s) := step_running rfl rfl
  refine ⟨rfl, by rw [e, after], ?_⟩
  decide +kernel
/-- A skipping step that counts down. -/
theorem witness_OnlyListedOperationsWrite_skipping :
    let s := { receivingState .awaitStart with skipLeft := 3, deadline := 1, env := { Env.start with
      times := [0], reads := [.ready 3], capture := [1#16, 2#16, 3#16] } }
    s.running = some .receive ∧ (after (step s)).skipLeft ≠ s.skipLeft := by decide +kernel
theorem witness_RegisterReadsByIndex : base.msg.length < 2 ^ 32 ∧ base.bits.length < 2 ^ 32 ∧
    base.pcm.length < 2 ^ 32 ∧ base.recBuf.length < 2 ^ 32 ∧ 13 < 14 ∧ base.diagNBits < 2 ^ 32 := by decide
theorem witness_CrcCatchesEverySingleBitError : (0 < 8) ∧ (7 < 8) := by decide
theorem witness_FrameEncodeWritesTheFrame :
    base.msg.length ≤ 65535 ∧ ({ base with msg := List.replicate 65535 0#8 } : State).msg.length ≤ 65535 :=
  ⟨by decide, (List.length_replicate ..).le⟩
/-- V18 rows 4, 6, 7, 3, 8, 11 and 1: one for each clause, at the boundary. -/
theorem witness_FrameDecodeOutcomes :
    (List.replicate 31 false).length < 32 ∧
    32 ≤ (List.replicate 32 false).length ∧ numberOf ((List.replicate 32 false).take 16) = 0 ∧
    8192 < numberOf ((bitsOf [0x20#8, 0x01#8, 0#8, 0#8]).take 16) ∧
    numberOf ((bitsA.take 39).take 16) = 1 ∧ (bitsA.take 39).length < 16 + 8 * 1 + 16 ∧
    numberOf ((bitsOf [0x20#8, 0x00#8, 0#8, 0#8]).take 16) = 8192 ∧
    numberOf (bitsA.take 16) = 1 ∧ 16 + 8 * 1 + 16 ≤ bitsA.length ∧
    (crcOfBits (bitsA.take 24)).toNat = numberOf ((bitsA.drop 24).take 16) ∧
    (crcOfBits ((bitsOf [0#8, 2#8, 0x40#8, 0x49#8, 0xB7#8, 0x28#8]).take 32)).toNat ≠
      numberOf (((bitsOf [0#8, 2#8, 0x40#8, 0x49#8, 0xB7#8, 0x28#8]).drop 32).take 16) := by decide +kernel
theorem witness_FrameCodecRoundTrip :
    1 ≤ ({ base with msg := [0x41#8] } : State).msg.length ∧
    ({ base with msg := List.replicate 8192 0#8 } : State).msg.length ≤ 8192 ∧
    base.msg.length = 0 ∧ 8193 ≤ ({ base with msg := List.replicate 8193 0#8 } : State).msg.length ∧
    ({ base with msg := List.replicate 65535 0#8 } : State).msg.length ≤ 65535 :=
  ⟨by decide, (List.length_replicate ..).le, rfl, (List.length_replicate ..).ge, (List.length_replicate ..).le⟩
/-- A one-byte and a three-byte message: each clause at the ends of its range of bit positions (V19). -/
theorem witness_SingleBitFlipOutcomes :
    (16 ≤ 16 ∧ 39 < 8 * (1 + 4)) ∧ (1 ^^^ 2 ^ (15 - 15) = 0) ∧ 8192 < 1 ^^^ 2 ^ (15 - 2) ∧
    (1 < 1 ^^^ 2 ^ (15 - 3) ∧ 1 ^^^ 2 ^ (15 - 3) ≤ 8192) ∧ (0 < 3 ^^^ 2 ^ (15 - 15) ∧ 3 ^^^ 2 ^ (15 - 15) < 3) := by decide
theorem witness_NumericLawsHold :
    (-2147483647 : Int).natAbs < 2 ^ 31 ∧ NumVal.gt ⟨2⟩ ⟨1⟩ = true ∧ NumVal.gt ⟨1⟩ ⟨0⟩ = true := by decide +kernel
theorem witness_ToneAppendsItsSamples :
    (0x7FFFFFFF#32).toNat < 2 ^ 31 ∧ (3600000#32).toNat ≤ 3600000 ∧ (0#32).toNat = 0 ∧
    0 < (1#32).toNat * 44100 / 1000 := by decide
theorem witness_SilenceAndZeroDurationKeepPhase :
    base.opa.toNat < 2 ^ 31 ∧ base.opb.toNat = 0 ∧ base.opa.toNat = 0 ∧
    ({ base with opb := 3600000#32 }).opb.toNat ≤ 3600000 := by decide
theorem witness_BurstDependsOnInputAlone :
    let s := { base with phase := ⟨1⟩, crc := 0#16 }
    s.bits = base.bits ∧ s.msg = base.msg ∧ s.phase ≠ base.phase ∧ s.msg.length ≤ 65535 := by decide
theorem witness_EncodeMessageIsEncodeThenBuild :
    ({ base with msg := List.replicate 65535 0#8 } : State).msg.length ≤ 65535 := (List.length_replicate ..).le
theorem witness_TransmitPlaysThenSleeps :
    ({ base with env := { Env.start with plays := [true] } }).env.plays.headD (Config.freePlay 0) = true ∧
    ({ base with env := { Env.start with plays := [false] } }).env.plays.headD (Config.freePlay 0) = false := by decide
theorem witness_TransmitHoldsUntilTheSleepEnds :
    let s := { base with running := some (.transmit 1), env := { Env.start with times := [0] } }
    let u := { base with running := some (.transmit 1), env := { Env.start with times := [1] } }
    s.running = some (.transmit 1) ∧ s.hostWaits = true ∧ (after (step s)).env.now < 1 ∧ 1 ≤ (after (step u)).env.now := by decide +kernel
theorem witness_GoertzelOperands :
    let s := { base with recBuf := [1#16, 0#16, 0xFFFF#16, 0#16], opa := 3#32, opb := 1#32, opc := 0x7FFFFFFF#32 }
    s.opb.toNat ≠ 0 ∧ s.opa.toNat + s.opb.toNat ≤ s.recBuf.length ∧ s.opc.toNat < 2 ^ 31 := by decide
/-- One whole symbol of zeros: the window of `SYM_ENERGY`, the candidate 0 and the start offset at the end. -/
theorem witness_SymbolWindow :
    let s := { base with recBuf := List.replicate 1764 0#16, opb := 4#32 }
    s.opa.toNat + 1764 ≤ s.recBuf.length ∧ candidate s 0 ∧
    (∀ i, i < 1764 → sampleAt s.recBuf (s.opa.toNat + i) = 0#16) ∧
    (∀ i, i < s.opb.toNat → sampleAt s.recBuf (s.opa.toNat + i) = 0#16) := by
  have z : ∀ i, sampleAt (List.replicate 1764 0#16) i = 0#16 := fun i => by
    rw [sampleAt, List.getD_eq_getElem?_getD, List.getElem?_replicate]
    split <;> rfl
  have l : (List.replicate 1764 (0#16 : Sample)).length = 1764 := List.length_replicate ..
  exact ⟨l.ge, ⟨rfl, l.ge, by decide⟩, fun i _ => z _, fun i _ => z _⟩
theorem witness_OffsetSearch_last : candidate { base with recBuf := List.replicate 3528 0#16 } 1764 :=
  ⟨rfl, (List.length_replicate ..).ge, le_refl _⟩
theorem witness_BitExtract : ({ base with recBuf := [0#16], opa := 1#32 }).opa.toNat ≤
    ({ base with recBuf := [0#16], opa := 1#32 }).recBuf.length := by decide
theorem witness_ReceiveEntry :
    (openCapture (readClock { base with env := { Env.start with opens := [true] } }).2).1 = true ∧
    (openCapture (readClock { base with env := { Env.start with opens := [false] } }).2).1 = false := by decide
theorem witness_DeadlineRaisesTimeout :
    let s := { receivingState .awaitStart with env := { Env.start with times := [0] } }
    let u := { receivingState .recording with env := { Env.start with times := [0] } }
    s.deadline ≤ (readClock s).1 ∧ receiving .awaitStart s ∧ u.deadline ≤ (readClock u).1 ∧
    receiving .recording u ∧ u.recBuf = [] ∧ ({ u with recBuf := [1#16] }).recBuf ≠ [] := by
  exact ⟨by decide +kernel, ⟨rfl, rfl, rfl, rfl⟩, by decide +kernel, ⟨rfl, rfl, rfl, rfl⟩, rfl, by decide⟩
theorem witness_ListeningStep :
    let s := { receivingState .awaitStart with deadline := 1, env := { Env.start with times := [0], reads := [.error] } }
    let u := { receivingState .awaitStart with deadline := 1, env := { Env.start with times := [0], reads := [.ready 0] } }
    receiving .awaitStart s ∧ s.skipLeft = 0 ∧ (readClock s).1 < s.deadline ∧
    (readCapture 5512 (readClock s).2).1 = none ∧ (readCapture 5512 (readClock u).2).1 = some [] ∧
    ({ s with deadline := 0 }).deadline ≤ (readClock { s with deadline := 0 }).1 := by
  exact ⟨⟨rfl, rfl, rfl, rfl⟩, rfl, by decide +kernel, rfl, rfl, by decide +kernel⟩
/-- Whether a full window is a detection depends on the open parameters. Under some it is: a window of zeros
that ends in one sample of 1. -/
theorem witness_Detection (n f : Nat) : ∃ (P : Params) (w : List Sample), w.length = n + 1 ∧
    (goertzelPower P.num w f).gt (powerThreshold P) = true := by
  let K : NumOps := { halfTurns with mul := fun _ _ => ⟨30⟩ }
  refine ⟨{ params with num := K }, List.replicate n 0#16 ++ [1#16], by simp, ?_⟩
  have hz : ∀ (c : NumVal) (m : Nat),
      (List.replicate m 0#16).foldl (goertzelStep K c) (.zero, .zero) = (.zero, .zero) := by
    intro c m
    induction m with
    | zero => rfl
    | succ m ih => rw [List.replicate_succ, List.foldl_cons]; simpa [goertzelStep] using ih
  have hp : ∀ c : NumVal, goertzelResult K c (goertzelStep K c (.zero, .zero) 1#16) = ⟨30⟩ := by
    intro c
    have h1 : sampleNum K 1#16 = ⟨1⟩ := by decide +kernel
    have h2 : K.times ⟨1⟩ ⟨1⟩ = ⟨30⟩ := by decide +kernel
    simp only [goertzelStep, goertzelResult, NumOps.times_zero, NumOps.plus_zero, NumOps.minus_zero, h1, h2]
  simp only [goertzelPower, List.foldl_append, hz, List.foldl_cons, List.foldl_nil, hp]
  decide +kernel
theorem witness_SkippingStep :
    let s := { receivingState .awaitStart with skipLeft := 3, deadline := 1, env := { Env.start with times := [0], reads := [.error] } }
    let u := { receivingState .awaitStart with skipLeft := 3, deadline := 1, env := { Env.start with
      times := [0], reads := [.ready 3], capture := [1#16, 2#16, 3#16] } }
    receiving .awaitStart s ∧ s.skipLeft ≠ 0 ∧ (readClock s).1 < s.deadline ∧
    (readCapture 3 (readClock s).2).1 = none ∧ (readCapture 3 (readClock u).2).1 = some [1#16, 2#16, 3#16] ∧
    ({ s with deadline := 0 }).deadline ≤ (readClock { s with deadline := 0 }).1 := by
  exact ⟨⟨rfl, rfl, rfl, rfl⟩, by decide, by decide +kernel, rfl, rfl, by decide +kernel⟩
/-- All clauses of the recording step but the one on `REC_CAPACITY`, an open parameter. -/
theorem witness_RecordingStep :
    let s := { receivingState .recording with env := { Env.start with times := [0] } }
    let u := { receivingState .recording with deadline := 1, env := { Env.start with times := [0], reads := [.error] } }
    let v := { receivingState .recording with deadline := 1, env := { Env.start with times := [0], reads := [.ready 0] } }
    receiving .recording s ∧ s.deadline ≤ (readClock s).1 ∧ s.recBuf.length = 0 ∧
    ({ s with recBuf := [1#16] }).recBuf.length ≠ 0 ∧
    (readClock u).1 < u.deadline ∧ (readCapture 2205 (readClock u).2).1 = none ∧
    (readCapture 2205 (readClock v).2).1 = some [] ∧
    (∀ cap, Config.params.recCapacity = some cap → v.recBuf.length + ([] : List Sample).length ≤ cap) := by
  exact ⟨⟨rfl, rfl, rfl, rfl⟩, by decide +kernel, rfl, by decide, by decide +kernel, rfl, rfl, fun _ _ => Nat.zero_le _⟩
theorem witness_RecordingFull : recordingFits { params with recCapacity := some 2 } 3 = false ∧
    recordingFits { params with recCapacity := some 2 } 2 = true := by decide
/-- No bits from an empty recording, and at least 32 from 33 symbols. -/
theorem witness_DemodulatingStep :
    receiving .demodulating (receivingState .demodulating) ∧
    (after (exec .demodulate (receivingState .demodulating))).bits.length < 32 ∧
    32 ≤ (after (exec .demodulate { receivingState .demodulating with recBuf := List.replicate 58212 0#16 })).bits.length := by
  refine ⟨⟨rfl, rfl, rfl, rfl⟩, by decide, ?_⟩
  simp only [exec, execDemodulate, demodulateBody_eq, goOn_eq, conclude_eq, after, endOp_bits,
    length_extractBits, List.length_replicate]
  have := (searchOffset_le Config.params.num (receivingState .demodulating).rom (List.replicate 58212 0#16)).2
  omega
theorem witness_ValidatingStep :
    receiving .validating (receivingState .validating) ∧
    (after (exec .frameDecode { receivingState .validating with bits := bitsA })).err = .none ∧
    (after (exec .frameDecode (receivingState .validating))).err ≠ .none := by
  exact ⟨⟨rfl, rfl, rfl, rfl⟩, by decide +kernel, by decide⟩
theorem witness_ZeroTimeoutFailsWithoutARead :
    let s := { base with timeoutS := 0#32, env := { Env.start with opens := [true], times := [4] } }
    s.timeoutS = 0#32 ∧ s.hostWaits = true ∧ exec .receive s = .next (after (exec .receive s)) ∧
    (after (exec .receive s)).running = some .receive := by
  exact ⟨rfl, rfl, rfl, rfl⟩

/-- A receive in progress, in a state that meets the invariant; the deadline 0 has been reached. -/
def heldState (x : RxState) : State :=
  { State.reset with
    rxState := x, capOpen := true, running := some .receive
    env := { Env.start with capOpens := 1, times := [0] } }

theorem heldState_inv (x : RxState) (h : x.active = true) : (heldState x).Inv where
  rom_fixed := rfl
  capture_held := h.symm
  receive_runs := by simp [heldState]
  releases_match := rfl
  skip_only_waiting := fun _ k => absurd rfl k
  busy_not_done := fun _ => rfl
  ok_no_error := fun _ => rfl
  done_ok := fun k => Bool.noConfusion k
  pcm_range := fun _ k => absurd k List.not_mem_nil
  rec_bounded := fun _ _ => Nat.zero_le _
  now_nonneg := le_refl _
  deadline_nonneg := le_refl _

theorem witness_ReceiveTransitions :
    (heldState .awaitStart).Inv ∧ (heldState .awaitStart).running = some .receive ∧
    (heldState .awaitStart).hostWaits = true ∧
    step (heldState .awaitStart) = .next (advance Config.params .receive (heldState .awaitStart)) ∧
    (advance Config.params .receive (heldState .awaitStart)).running = none :=
  ⟨heldState_inv _ rfl, rfl, rfl, rfl, by decide +kernel⟩
theorem witness_RxStateWrittenOnlyByReceive :
    let s := { base with cmd := some 0x60#8, env := { Env.start with opens := [true], times := [0] } }
    let u := { base with rxState := .success, host := [⟨true, .reset⟩] }
    (after (step s)).rxState ≠ s.rxState ∧ (after (step u)).rxState ≠ u.rxState ∧
    (after (step (heldState .awaitStart))).rxState ≠ (heldState .awaitStart).rxState := by decide +kernel
theorem witness_DeadlineEndsTheReceive :
    (heldState .recording).Inv ∧ (heldState .recording).host = [] ∧ (heldState .recording).rxState = .recording ∧
    (heldState .recording).deadline ≤ (readClock (heldState .recording)).1 ∧
    (heldState .awaitStart).deadline ≤ (readClock (heldState .awaitStart)).1 :=
  ⟨heldState_inv _ rfl, rfl, rfl, by decide +kernel, by decide +kernel⟩
theorem witness_ClockNeverRunsBackwards : step base = .next base := rfl
theorem witness_CaptureRead :
    (readCapture 2 { base with env := { Env.start with reads := [.error] } }).1 = none ∧
    (readCapture 2 { base with env := { Env.start with reads := [.ready 3], capture := [1#16, 2#16, 3#16] } }).1 =
      some [1#16, 2#16] := by decide
theorem witness_StepKeepsTheInvariant :
    (heldState .validating).Inv ∧
    step (heldState .validating) = .next (advance Config.params .receive (heldState .validating)) :=
  ⟨heldState_inv _ rfl, rfl⟩

end Sys2Proof.Tests
end

section
/-! PROOFS. The clock and the capture stream: no operation, host action or step moves the clock backwards,
and a capture read consumes exactly what it returns (spec 00_scope.md R13, 20_memory.md R57, 60_exceptions.md
R272). -/

namespace Sys2Proof.Machine

/-! ## The primitives and the clock (R13)

Only `Now` moves the clock. -/

theorem readClock_now_le (s : State) : s.env.now ≤ (readClock s).2.env.now := by
  obtain ⟨hle, hnow⟩ := readClock_spec s
  rw [hnow]
  exact hle

@[simp] theorem openCapture_now (s : State) : (openCapture s).2.env.now = s.env.now := rfl

@[simp] theorem playWrite_now (p : List Sample) (s : State) : (playWrite p s).2.env.now = s.env.now := rfl

@[simp] theorem readCapture_now (n : Nat) (s : State) : (readCapture n s).2.env.now = s.env.now :=
  (readCapture_env n s).1

/-! ## The atomic operations leave the environment (R13, R56) -/

@[simp] theorem frameEncode_env (s : State) : (frameEncode s).1.env = s.env := by
  unfold frameEncode
  split <;> rfl

@[simp] theorem frameDecode_env (s : State) : (frameDecode s).1.env = s.env := by
  rw [frameDecode_keeps]

@[simp] theorem toneBody_env (K : NumOps) (s : State) : (toneBody K s).1.env = s.env := by
  unfold toneBody
  split <;> rfl

@[simp] theorem playBits_env (K : NumOps) (s : State) : (playBits K s).env = s.env := by
  obtain ⟨p, f, h⟩ := foldl_playBit_keeps K s.bits s
  rw [playBits, h]

@[simp] theorem buildBurst_env (K : NumOps) (s : State) : (buildBurst K s).env = s.env := by
  rw [buildBurst_eq]

@[simp] theorem encodeBurst_env (K : NumOps) (s : State) : (encodeBurst K s).1.env = s.env := by
  have h := frameEncode_env s
  unfold encodeBurst
  split
  next t ht =>
    rw [ht] at h
    exact (buildBurst_env K t).trans h
  next t e _ ht =>
    rw [ht] at h
    exact h

@[simp] theorem powerBody_env (P : Params) (s : State) : (powerBody P s).1.env = s.env := by
  unfold powerBody
  split <;> rfl

@[simp] theorem detectBody_env (P : Params) (s : State) : (detectBody P s).1.env = s.env := by
  unfold detectBody
  split <;> rfl

@[simp] theorem energyBody_env (K : NumOps) (s : State) : (energyBody K s).1.env = s.env := by
  unfold energyBody
  split <;> rfl

@[simp] theorem extractBody_env (K : NumOps) (p : Nat) (s : State) : (extractBody K p s).1.env = s.env := by
  unfold extractBody
  split <;> rfl

@[simp] theorem demodulateBody_env (K : NumOps) (s : State) : (demodulateBody K s).1.env = s.env :=
  extractBody_env K _ (searchBody K s)

/-- Only `RECEIVE` and `TRANSMIT` touch the environment. -/
theorem exec_atomic_env {i : Instr} (hi : Rules.atomic i) {s t : State} (h : exec i s = .next t) :
    t.env = s.env := by
  obtain ⟨htransmit, hreceive⟩ := hi
  cases i
  case transmit => exact absurd rfl htransmit
  case receive => exact absurd rfl hreceive
  case crcInit | crcByte | crcRead | crcBlock | modReset | offsetSearch => cases h; rfl
  case frameEncode => cases h; exact frameEncode_env s
  case frameDecode =>
    cases h
    rw [conclude_eq, endOp_env]
    split <;> exact frameDecode_env s
  case tone => cases h; exact toneBody_env _ s
  case modBits => cases h; exact playBits_env _ s
  case buildFrame => cases h; exact buildBurst_env _ s
  case encodeMessage => cases h; exact encodeBurst_env _ s
  case goertzelPower => cases h; exact powerBody_env _ s
  case toneDetect => cases h; exact detectBody_env _ s
  case symEnergy => cases h; exact energyBody_env _ s
  case bitExtract => cases h; exact extractBody_env _ _ s
  case demodulate => cases h; exact demodulateBody_env _ s

/-! ## `TRANSMIT` and the clock (R150) -/

theorem startTransmit_now_le (P : Params) (s : State) : s.env.now ≤ (startTransmit P s).env.now := by
  have hplay := playWrite_now s.pcm s
  unfold startTransmit
  split
  next t ht =>
    rw [ht] at hplay
    exact hplay ▸ readClock_now_le t
  next t ht =>
    rw [ht] at hplay
    exact hplay.ge

theorem transmitStep_now_le (wake : Rat) (s : State) : s.env.now ≤ (transmitStep wake s).env.now := by
  unfold transmitStep
  dsimp only
  split <;> exact readClock_now_le s

/-! ## `RECEIVE` and the clock (R221 to R229)

A step reads the clock at most once, in its deadline test; nothing after the test moves it. -/

theorem rxEnter_now_le (s : State) : s.env.now ≤ (rxEnter s).env.now := by
  have hclear : s.env.now ≤ (rxClear s).env.now :=
    readClock_now_le { s with msg := [], bits := [], recBuf := [], skipLeft := 0 }
  have hopen := openCapture_now (rxClear s)
  unfold rxEnter
  split <;> next t ht =>
    rw [ht] at hopen
    exact hclear.trans hopen.ge

@[simp] theorem rxFail_now (e : ErrCode) (s : State) : (rxFail e s).env.now = s.env.now := by
  unfold rxFail releaseCapture
  split <;> rfl

@[simp] theorem rxSucceed_now (s : State) : (rxSucceed s).env.now = s.env.now := rfl

@[simp] theorem rxHeard_env (P : Params) (w : List Sample) (s : State) : (rxHeard P w s).env = s.env := by
  unfold rxHeard
  split <;> rfl

@[simp] theorem rxSkipped_env (w : List Sample) (s : State) : (rxSkipped w s).env = s.env := rfl

@[simp] theorem rxRecorded_now (P : Params) (w : List Sample) (s : State) :
    (rxRecorded P w s).env.now = s.env.now := by
  unfold rxRecorded
  split
  · rfl
  · exact rxFail_now _ s

@[simp] theorem rxRecordLate_now (s : State) : (rxRecordLate s).env.now = s.env.now := by
  unfold rxRecordLate
  split
  · exact rxFail_now _ s
  · rfl

@[simp] theorem rxDemodulate_now (K : NumOps) (s : State) : (rxDemodulate K s).env.now = s.env.now := by
  rw [rxDemodulate_eq]
  dsimp only
  split
  · exact rxFail_now _ _
  · rfl

@[simp] theorem rxValidate_now (s : State) : (rxValidate s).env.now = s.env.now := by
  unfold rxValidate
  dsimp only
  split <;> simp

/-- A capture read does not move the clock, whatever follows that does not. -/
theorem withRead_now {n : Nat} {use : List Sample → State → State} (s : State)
    (huse : ∀ w u, (use w u).env.now = u.env.now) : (withRead n use s).env.now = s.env.now := by
  have hread := readCapture_now n s
  unfold withRead
  split <;> next ht =>
    rw [ht] at hread
    simpa [huse] using hread

/-- The deadline test does not move the clock backwards, whatever follows that does not move it. -/
theorem beforeDeadline_now_le {late early : State → State} (s : State)
    (hlate : ∀ u, (late u).env.now = u.env.now) (hearly : ∀ u, (early u).env.now = u.env.now) :
    s.env.now ≤ (beforeDeadline late early s).env.now := by
  rw [beforeDeadline_eq]
  split
  · rw [hlate]; exact readClock_now_le s
  · rw [hearly]; exact readClock_now_le s

theorem receiveStep_now_le (P : Params) (s : State) : s.env.now ≤ (receiveStep P s).env.now := by
  unfold receiveStep
  split
  next =>
    split
    · exact beforeDeadline_now_le s (rxFail_now _) fun u => withRead_now u fun w v =>
        congrArg Env.now (rxHeard_env P w v)
    · exact beforeDeadline_now_le s (rxFail_now _) fun u => withRead_now u fun w v =>
        congrArg Env.now (rxSkipped_env w v)
  next => exact beforeDeadline_now_le s rxRecordLate_now fun u => withRead_now u (rxRecorded_now P)
  next => exact (rxDemodulate_now _ s).ge
  next => exact (rxValidate_now s).ge
  all_goals exact le_rfl

/-! ## Commands, the host and the clock -/

theorem exec_now_le {i : Instr} {s t : State} (h : exec i s = .next t) : s.env.now ≤ t.env.now := by
  by_cases htransmit : i = .transmit
  · subst htransmit; cases h; exact startTransmit_now_le _ s
  by_cases hreceive : i = .receive
  · subst hreceive; cases h; exact rxEnter_now_le s
  · rw [exec_atomic_env ⟨htransmit, hreceive⟩ h]

theorem startCommand_now_le {c : Byte} {s t : State} (h : startCommand c s = .next t) :
    s.env.now ≤ t.env.now := by
  unfold startCommand at h
  split at h
  next => exact exec_now_le h
  next => cases h; exact le_rfl

theorem advance_now_le (P : Params) (r : Running) (s : State) : s.env.now ≤ (advance P r s).env.now := by
  cases r with
  | receive => exact receiveStep_now_le P s
  | transmit wake => exact transmitStep_now_le wake s

@[simp] theorem storeRec_now (P : Params) (v : List Sample) (s : State) :
    (storeRec P v s).env.now = s.env.now := by
  rw [storeRec_keeps]

/-- No host action moves the clock, `Reset` included (R290, log 11). -/
@[simp] theorem hostAction_now (a : HostOp) (s : State) : (hostAction a s).env.now = s.env.now := by
  cases a
  case writeRec v => exact storeRec_now _ v s
  case writeRecLen v => exact storeRec_now _ _ (spendDraws v.toNat s.recBuf.length s)
  all_goals rfl

/-! ## The capture stream -/

/-- As far as the listed samples reach, the next samples are those, in their order (R13). -/
theorem take_nextSamples (k : Nat) (e : Env) :
    (nextSamples k e).take e.capture.length = e.capture.take k := by
  unfold nextSamples
  rcases Nat.le_total k e.capture.length with hk | hk
  · simp [Nat.sub_eq_zero_of_le hk, List.take_of_length_le, hk]
  · simp [List.take_of_length_le hk]

end Sys2Proof.Machine

namespace Sys2Proof.Proofs

open Sys2Proof.Machine

/-- Settles O56, by the cases of a step: a running operation, a command and a host action each keep the
clock or take a later answer of `Now`. -/
theorem clockNeverRunsBackwards : Obligations.ClockNeverRunsBackwards := by
  intro s t h
  obtain ⟨r, -, -, rfl⟩ | ⟨a, rest, -, -, -, rfl⟩ | ⟨c, -, -, hstart⟩ | ⟨a, rest, -, -, -, rfl⟩ |
    ⟨-, -, -, rfl⟩ := step_cases h
  · exact advance_now_le _ r s
  · exact le_rfl
  · exact startCommand_now_le (s := { s with cmd := none }) hstart
  · exact (hostAction_now a.op { s with host := rest }).ge
  · exact le_rfl

/-- Settles O57, by the two answers of a capture read: an error consumes nothing, and samples are the next
ones of the stream. -/
theorem captureReadConsumesWhatItReturns : Obligations.CaptureReadConsumesWhatItReturns := by
  intro n s
  rcases hread : readCapture n s with ⟨_ | w, t⟩
  · obtain rfl := readCapture_none hread
    exact ⟨_, rfl, fun _ => ⟨rfl, rfl⟩, by simp⟩
  · obtain ⟨hle, hw, rfl⟩ := readCapture_some hread
    refine ⟨_, rfl, by simp, ?_⟩
    intro w' hw'
    obtain rfl : w = w' := Option.some.inj hw'
    have htake : w.take s.env.capture.length = s.env.capture.take w.length :=
      (congrArg (List.take _) hw).trans (take_nextSamples _ _)
    exact ⟨hle, rfl, rfl, htake⟩

end Sys2Proof.Proofs
end

section
/-! PROOFS. What each operation, and each step of a running operation, may write (spec 10_state.md R21 to R37,
42_fsk_modulator.md R150, 45_receiver_fsm.md R221 to R229). -/

namespace Sys2Proof.Machine

/-! ## What the operations write (R21 to R37, R85)

One equation per body: the state with the fields it may have written. -/

theorem frameEncode_keeps (s : State) : ∃ c b, (frameEncode s).1 = { s with crc := c, bits := b } := by
  unfold frameEncode
  split <;> exact ⟨_, _, rfl⟩

theorem toneBody_keeps (K : NumOps) (s : State) :
    ∃ p f, (toneBody K s).1 = { s with phase := p, fbuf := f } := by
  unfold toneBody
  split <;> exact ⟨_, _, rfl⟩

theorem playBits_keeps (K : NumOps) (s : State) :
    ∃ p f, playBits K s = { s with phase := p, fbuf := f } :=
  foldl_playBit_keeps K s.bits s

/-- `ENCODE_MESSAGE` encodes, and builds the burst unless the message is refused (R149). -/
theorem encodeBurst_fst_cases (K : NumOps) (s : State) :
    (encodeBurst K s).1 = buildBurst K (frameEncode s).1 ∨ (encodeBurst K s).1 = (frameEncode s).1 := by
  unfold encodeBurst
  split <;> next ht => simp [ht]

theorem encodeBurst_keeps (K : NumOps) (s : State) : ∃ c b p f x,
    (encodeBurst K s).1 = { s with crc := c, bits := b, phase := p, fbuf := f, pcm := x } := by
  obtain ⟨c, b, henc⟩ := frameEncode_keeps s
  rcases encodeBurst_fst_cases K s with h | h <;> rw [h, henc]
  · exact ⟨c, b, _, _, _, buildBurst_eq K _⟩
  · exact ⟨c, b, _, _, _, rfl⟩

theorem powerBody_keeps (P : Params) (s : State) : ∃ x, (powerBody P s).1 = { s with resN0 := x } := by
  unfold powerBody
  split <;> exact ⟨_, rfl⟩

theorem detectBody_keeps (P : Params) (s : State) :
    ∃ x i, (detectBody P s).1 = { s with resN0 := x, resI := i } := by
  unfold detectBody
  split <;> exact ⟨_, _, rfl⟩

theorem energyBody_keeps (K : NumOps) (s : State) :
    ∃ x y i, (energyBody K s).1 = { s with resN0 := x, resN1 := y, resI := i } := by
  unfold energyBody
  split <;> exact ⟨_, _, _, rfl⟩

theorem extractBody_keeps (K : NumOps) (p : Nat) (s : State) :
    ∃ b, (extractBody K p s).1 = { s with bits := b } := by
  unfold extractBody
  split <;> exact ⟨_, rfl⟩

/-- What `FRAME_DECODE` writes when the host issues it (R124, R268). -/
theorem execFrameDecode_keeps (s : State) : ∃ c m k r d e, execFrameDecode s = .next (endOp e
    { s with crc := c, msg := m, diagNBits := s.bits.length, diagCrcCalc := k, diagCrcRx := r,
             diagState := d }) := by
  unfold execFrameDecode
  dsimp only
  rw [frameDecode_keeps]
  split <;> exact ⟨_, _, _, _, _, _, rfl⟩

/-- An operation of one step has ended in the state it leaves (R56, R268). -/
theorem exec_atomic_ends {i : Instr} (hi : Rules.atomic i) {s t : State} (h : exec i s = .next t) :
    ∃ e u, t = endOp e u := by
  obtain ⟨htransmit, hreceive⟩ := hi
  cases i
  case transmit => exact absurd rfl htransmit
  case receive => exact absurd rfl hreceive
  all_goals cases h; exact ⟨_, _, rfl⟩

/-! ## The environment between two answers (R13) -/

/-- From `e` to `f` the clock has not gone back, and the capture device was neither acquired nor released. -/
structure Env.Onward (e f : Env) : Prop where
  now_le : e.now ≤ f.now
  opens_eq : f.capOpens = e.capOpens
  closes_eq : f.capCloses = e.capCloses

theorem Env.Onward.trans {e f g : Env} (h : e.Onward f) (k : f.Onward g) : e.Onward g where
  now_le := h.now_le.trans k.now_le
  opens_eq := k.opens_eq.trans h.opens_eq
  closes_eq := k.closes_eq.trans h.closes_eq

theorem readClock_onward (s : State) : s.env.Onward (readClock s).2.env := ⟨readClock_now_le s, rfl, rfl⟩

theorem playWrite_onward (p : List Sample) (s : State) : s.env.Onward (playWrite p s).2.env :=
  ⟨le_rfl, rfl, rfl⟩

theorem readCapture_onward (n : Nat) (s : State) : s.env.Onward (readCapture n s).2.env := by
  obtain ⟨hnow, hopens, hcloses, -⟩ := readCapture_env n s
  exact ⟨hnow.ge, hopens, hcloses⟩

/-! ## `TRANSMIT` (R150) -/

/-- `TRANSMIT` starts its sleep, or ends with `DeviceError`; besides that it changes the environment. -/
theorem startTransmit_cases (P : Params) (s : State) : ∃ env, s.env.Onward env ∧
    ((∃ wake, startTransmit P s = startOp (.transmit wake) { s with env := env }) ∨
      startTransmit P s = endOp .deviceError { s with env := env }) := by
  have honward := playWrite_onward s.pcm s
  unfold startTransmit
  split
  next u hu =>
    obtain rfl : (playWrite s.pcm s).2 = u := congrArg Prod.snd hu
    exact ⟨_, honward.trans (readClock_onward _), .inl ⟨_, rfl⟩⟩
  next u hu =>
    obtain rfl : (playWrite s.pcm s).2 = u := congrArg Prod.snd hu
    exact ⟨_, honward, .inr rfl⟩

/-- A step of the sleep waits or ends the operation; besides that it changes the environment. -/
theorem transmitStep_cases (wake : Rat) (s : State) : ∃ env, s.env.Onward env ∧
    (transmitStep wake s = { s with env := env } ∨
      transmitStep wake s = endOp .none { s with env := env }) := by
  refine ⟨_, readClock_onward s, ?_⟩
  unfold transmitStep
  dsimp only
  split
  · exact .inr rfl
  · exact .inl rfl

/-! ## The entry of `RECEIVE` (R221) -/

/-- The state in which `RECEIVE` enters, once the environment has become `env`: the clock has been read and
the device has answered. -/
def rxEntered (env : Env) (s : State) : State :=
  { s with
    msg := [], bits := [], recBuf := [], skipLeft := 0
    deadline := env.now + (s.timeoutS.toNat : Rat), env := env }

/-- `RECEIVE` acquires the device and waits for the start tone, or fails (R221). -/
theorem rxEnter_cases (s : State) : ∃ env, s.env.now ≤ env.now ∧ env.capCloses = s.env.capCloses ∧
    ((env.capOpens = s.env.capOpens + 1 ∧ rxEnter s =
        startOp .receive { rxEntered env s with capOpen := true, rxState := .awaitStart }) ∨
      (env.capOpens = s.env.capOpens ∧ rxEnter s =
        endOp .deviceError { rxEntered env s with diagState := .idle, rxState := .failed })) := by
  have hnow : s.env.now ≤ (openCapture (rxClear s)).2.env.now :=
    readClock_now_le { s with msg := [], bits := [], recBuf := [], skipLeft := 0 }
  refine ⟨(openCapture (rxClear s)).2.env, hnow, rfl, ?_⟩
  unfold rxEnter
  split
  next u hu =>
    have hok : (openCapture (rxClear s)).1 = true := congrArg Prod.fst hu
    obtain rfl : (openCapture (rxClear s)).2 = u := congrArg Prod.snd hu
    exact .inl ⟨if_pos hok, rfl⟩
  next u hu =>
    have hok : (openCapture (rxClear s)).1 = false := congrArg Prod.fst hu
    obtain rfl : (openCapture (rxClear s)).2 = u := congrArg Prod.snd hu
    exact .inr ⟨if_neg (Bool.eq_false_iff.mp hok), rfl⟩

/-! ## The steps of a running `RECEIVE` (R222 to R229)

Said once: what a step has written before its outcome is known, by the state it is taken in, and what the
outcomes are. -/

/-- What a step of a running `RECEIVE` has written when its outcome is known. -/
inductive RxWork (P : Params) (s : State) : State → Prop where
  /-- listening or skipping (R222, R224) -/
  | waited (k : Nat) (env : Env) : s.rxState = .awaitStart → s.env.Onward env →
      RxWork P s { s with skipLeft := k, env := env }
  /-- recording, within the capacity (R225, R58) -/
  | recorded (r : List Sample) (env : Env) : s.rxState = .recording → s.env.Onward env →
      (r = s.recBuf ∨ recordingFits P r.length = true) →
      RxWork P s { s with recBuf := r, env := env }
  /-- demodulating (R226) -/
  | demodulated (b : List Bit) (i : U32) (x : NumVal) : s.rxState = .demodulating →
      RxWork P s { s with bits := b, resI := i, resN0 := x, diagNBits := b.length }
  /-- validating (R227) -/
  | decoded (c k r : U16) (m : List Byte) : s.rxState = .validating →
      RxWork P s { s with
        crc := c, msg := m, diagNBits := s.bits.length, diagCrcCalc := k, diagCrcRx := r }

/-- The outcomes of a step of a running `RECEIVE`: it fails, it succeeds, or it goes on in a state with the
device held, and then keeps waiting while samples are left to skip. -/
inductive RxOutcome (u : State) : State → Prop where
  | failed (e : ErrCode) : e ≠ .none → RxOutcome u (rxFail e u)
  | succeeded : RxOutcome u (rxSucceed u)
  | continues (x : RxState) : x.active = true →
      (u.rxState = .awaitStart → u.skipLeft ≠ 0 → x = .awaitStart) →
      RxOutcome u { u with rxState := x }

/-- A step that tests the deadline and reads: the deadline has passed, the device fails, or samples come. -/
theorem beforeDeadline_withRead_cases (late : State → State) (n : Nat)
    (use : List Sample → State → State) (s : State) : ∃ env, s.env.Onward env ∧
    (beforeDeadline late (withRead n use) s = late { s with env := env } ∨
      beforeDeadline late (withRead n use) s = rxFail .deviceError { s with env := env } ∨
      ∃ w, beforeDeadline late (withRead n use) s = use w { s with env := env }) := by
  have hclock := readClock_onward s
  have hread := hclock.trans (readCapture_onward n (readClock s).2)
  have hkeeps := readCapture_keeps n (readClock s).2
  rw [beforeDeadline_eq]
  split
  · exact ⟨_, hclock, .inl rfl⟩
  rcases hr : readCapture n (readClock s).2 with ⟨_ | w, u⟩
  · rw [withRead_none hr]
    rw [hr] at hread hkeeps
    exact ⟨u.env, hread, .inr (.inl (congrArg _ hkeeps))⟩
  · rw [withRead_some hr]
    rw [hr] at hread hkeeps
    exact ⟨u.env, hread, .inr (.inr ⟨w, congrArg _ hkeeps⟩)⟩

/-- A listening or skipping step, whose use of the samples writes `skipLeft` and begins the recording only
when nothing is left to skip. -/
theorem awaitStep_cases {P : Params} {s : State} {n : Nat} {use : List Sample → State → State}
    (hs : s.rxState = .awaitStart)
    (huse : ∀ w u, ∃ k x, use w u = { u with skipLeft := k, rxState := x } ∧
      (x = u.rxState ∨ x = .recording ∧ k = 0)) :
    ∃ u, RxWork P s u ∧ RxOutcome u (beforeDeadline (rxFail .timeout) (withRead n use) s) := by
  obtain ⟨env, henv, h | h | ⟨w, h⟩⟩ := beforeDeadline_withRead_cases (rxFail .timeout) n use s <;> rw [h]
  · exact ⟨_, .waited s.skipLeft env hs henv, .failed _ (by decide)⟩
  · exact ⟨_, .waited s.skipLeft env hs henv, .failed _ (by decide)⟩
  · obtain ⟨k, x, hw, hx⟩ := huse w { s with env := env }
    rw [hw]
    refine ⟨_, .waited k env hs henv, .continues x ?_ ?_⟩
    · rcases hx with rfl | ⟨rfl, -⟩
      · exact congrArg RxState.active hs
      · rfl
    · rintro - hk
      rcases hx with rfl | ⟨-, rfl⟩
      · exact hs
      · exact absurd rfl hk

theorem rxHeard_keeps (P : Params) (w : List Sample) (s : State) :
    ∃ k x, rxHeard P w s = { s with skipLeft := k, rxState := x } ∧
      (x = s.rxState ∨ x = .recording ∧ k = 0) := by
  unfold rxHeard
  split
  · refine ⟨_, _, rfl, ?_⟩
    split
    · exact .inr ⟨rfl, ‹_›⟩
    · exact .inl rfl
  · exact ⟨_, _, rfl, .inl rfl⟩

theorem rxSkipped_keeps (w : List Sample) (s : State) :
    ∃ k x, rxSkipped w s = { s with skipLeft := k, rxState := x } ∧
      (x = s.rxState ∨ x = .recording ∧ k = 0) := by
  refine ⟨_, _, rfl, ?_⟩
  split
  · exact .inr ⟨rfl, ‹_›⟩
  · exact .inl rfl

theorem rxRecord_cases {P : Params} {s : State} (hs : s.rxState = .recording) :
    ∃ u, RxWork P s u ∧ RxOutcome u (rxRecord P s) := by
  have hnot (u : State) (hu : u.rxState = .recording) (x : RxState) :
      u.rxState = .awaitStart → u.skipLeft ≠ 0 → x = .awaitStart := by simp [hu]
  obtain ⟨env, henv, h | h | ⟨w, h⟩⟩ :=
    beforeDeadline_withRead_cases rxRecordLate Config.endWindow (rxRecorded P) s <;> rw [rxRecord, h]
  · refine ⟨_, .recorded s.recBuf env hs henv (.inl rfl), ?_⟩
    unfold rxRecordLate
    split
    · exact .failed _ (by decide)
    · exact .continues _ rfl (hnot _ hs _)
  · exact ⟨_, .recorded s.recBuf env hs henv (.inl rfl), .failed _ (by decide)⟩
  · unfold rxRecorded
    dsimp only
    split
    next hfits =>
      refine ⟨_, .recorded (s.recBuf ++ w) env hs henv (.inr ?_), .continues _ ?_ (hnot _ hs _)⟩
      · rw [List.length_append]; exact hfits
      · split
        · rfl
        · exact congrArg RxState.active hs
    next => exact ⟨_, .recorded s.recBuf env hs henv (.inl rfl), .failed _ (by decide)⟩

theorem rxDemodulate_cases {P : Params} {s : State} (hs : s.rxState = .demodulating) :
    ∃ u, RxWork P s u ∧ RxOutcome u (rxDemodulate P.num s) := by
  rw [rxDemodulate_eq]
  dsimp only
  split
  · exact ⟨_, .demodulated _ _ _ hs, .failed _ (by decide)⟩
  · exact ⟨_, .demodulated _ _ _ hs, .continues _ rfl (by simp [hs])⟩

theorem rxValidate_cases {P : Params} {s : State} (hs : s.rxState = .validating) :
    ∃ u, RxWork P s u ∧ RxOutcome u (rxValidate s) := by
  refine ⟨(frameDecode s).1, ?_, ?_⟩
  · rw [frameDecode_keeps]
    exact .decoded _ _ _ _ hs
  · unfold rxValidate
    dsimp only
    split
    · exact .succeeded
    · exact .failed _ ‹_›

/-- Everything a step of a running `RECEIVE` can do. -/
theorem receiveStep_cases (P : Params) {s : State} (hs : s.rxState.active = true) :
    ∃ u, RxWork P s u ∧ RxOutcome u (receiveStep P s) := by
  unfold receiveStep
  split
  next h =>
    split
    · exact awaitStep_cases h (rxHeard_keeps P)
    · exact awaitStep_cases h rxSkipped_keeps
  next h => exact rxRecord_cases h
  next h => exact rxDemodulate_cases h
  next h => exact rxValidate_cases h
  all_goals next h => simp [h, RxState.active] at hs

/-- Outside the states with the device held a running `RECEIVE` does nothing (log 12). -/
theorem receiveStep_inactive (P : Params) {s : State} (hs : s.rxState.active = false) :
    receiveStep P s = s := by
  unfold receiveStep
  split
  case h_5 | h_6 | h_7 => rfl
  all_goals next h => simp [h, RxState.active] at hs

/-- `Fail(e)`, whether or not the device is held (R229, R268). -/
theorem rxFail_keeps (e : ErrCode) (s : State) : rxFail e s =
    endOp e { s with
      diagState := s.rxState, msg := [], capOpen := (rxFail e s).capOpen, rxState := .failed
      env := (rxFail e s).env } := by
  unfold rxFail releaseCapture
  split <;> rfl

/-- An outcome leaves every register alone but the message, the receive state and how the operation ended. -/
theorem RxOutcome.keeps {u t : State} (h : RxOutcome u t) : t =
    { u with
      diagState := t.diagState, msg := t.msg, capOpen := t.capOpen, rxState := t.rxState, env := t.env
      running := t.running, done := t.done, ok := t.ok, err := t.err } := by
  cases h with
  | failed e => rw [rxFail_keeps]; rfl
  | succeeded => rfl
  | continues x => rfl

end Sys2Proof.Machine

namespace Sys2Proof.Proofs

open Sys2Proof.Machine

/-- Settles O15, by the operations one by one, and by what a step of `RECEIVE` or `TRANSMIT` has written with
each of its outcomes. -/
theorem onlyListedOperationsWrite : Obligations.OnlyListedOperationsWrite := by
  refine ⟨fun i s t h => ?_, fun r s t hr h => ?_⟩
  · cases i
    case crcInit | crcByte | crcRead | crcBlock | modReset | offsetSearch => cases h; simp
    case frameEncode =>
      obtain ⟨c, b, hk⟩ := frameEncode_keeps s
      cases h; simp [hk]
    case frameDecode =>
      obtain ⟨c, m, k, r, d, e, hk⟩ := execFrameDecode_keeps s
      cases hk.symm.trans h; simp
    case tone =>
      obtain ⟨p, f, hk⟩ := toneBody_keeps Config.params.num s
      cases h; simp [hk]
    case modBits =>
      obtain ⟨p, f, hk⟩ := playBits_keeps Config.params.num s
      cases h; simp [hk]
    case buildFrame =>
      cases h; simp [buildBurst_eq]
    case encodeMessage =>
      obtain ⟨c, b, p, f, x, hk⟩ := encodeBurst_keeps Config.params.num s
      cases h; simp [hk]
    case goertzelPower =>
      obtain ⟨x, hk⟩ := powerBody_keeps Config.params s
      cases h; simp [hk]
    case toneDetect =>
      obtain ⟨x, i, hk⟩ := detectBody_keeps Config.params s
      cases h; simp [hk]
    case symEnergy =>
      obtain ⟨x, y, i, hk⟩ := energyBody_keeps Config.params.num s
      cases h; simp [hk]
    case bitExtract =>
      obtain ⟨b, hk⟩ := extractBody_keeps Config.params.num (opA s) s
      cases h; simp [hk]
    case demodulate =>
      cases h; simp [demodulateBody_eq]
    case transmit =>
      obtain ⟨env, -, ⟨w, hk⟩ | hk⟩ := startTransmit_cases Config.params s <;> cases h <;> simp [hk]
    case receive =>
      obtain ⟨env, -, -, ⟨-, hk⟩ | ⟨-, hk⟩⟩ := rxEnter_cases s <;> cases h <;> simp [hk, rxEntered]
  · obtain ⟨r', hr', -, rfl⟩ | ⟨a, rest, -, hhost, -, rfl⟩ | ⟨c, hidle, -⟩ | ⟨a, rest, hidle, -⟩ |
      ⟨hidle, -⟩ := step_cases h
    · obtain rfl : r = r' := Option.some.inj (hr.symm.trans hr')
      cases r with
      | transmit wake =>
        obtain ⟨env, -, hk | hk⟩ := transmitStep_cases wake s <;> simp [advance, hk]
      | receive =>
        cases hactive : s.rxState.active with
        | false => simp [advance, receiveStep_inactive _ hactive]
        | true =>
          obtain ⟨u, hwork, houtcome⟩ := receiveStep_cases Config.params hactive
          rw [advance, houtcome.keeps]
          cases hwork <;> simp [*]
    · simp [hhost]
    all_goals simp [hr] at hidle

end Sys2Proof.Proofs
end

section
/-! PROOFS. Every step keeps the invariant of the block (spec 10_state.md R25 to R36, 20_memory.md R51 and
R58, 45_receiver_fsm.md R230, 60_exceptions.md R268). -/

namespace Sys2Proof.Machine

/-! ## Atomic operations and the invariant -/

/-- What the invariant speaks of and no operation of one step writes (R21 to R37). -/
theorem exec_atomic_keeps {i : Instr} (hi : Rules.atomic i) {s t : State} (h : exec i s = .next t) :
    t.rom = s.rom ∧ t.recBuf = s.recBuf ∧ t.rxState = s.rxState ∧ t.deadline = s.deadline ∧
    t.skipLeft = s.skipLeft ∧ t.capOpen = s.capOpen ∧ t.env = s.env := by
  obtain ⟨-, -, -, -, -, -, hrec, -, -, -, hrx, -, -, hrom, -⟩ :=
    Proofs.onlyListedOperationsWrite.1 i s t h
  have hrec' := mt hrec hi.2
  have hrx' := mt hrx hi.2
  simp only [not_or, not_not] at hrec' hrx'
  obtain ⟨hstate, hdeadline, hskip, hcap⟩ := hrx'
  exact ⟨hrom, hrec', hstate, hdeadline, hskip, hcap, exec_atomic_env hi h⟩

/-- Every sample of a burst is quantised (R146, R148). -/
theorem buildBurst_pcm (K : NumOps) (s : State) :
    ∀ x ∈ (buildBurst K s).pcm, -32767 ≤ x.toInt := by
  rw [buildBurst_eq]
  intro x hx
  obtain ⟨v, -, rfl⟩ := List.mem_map.mp hx
  exact (quantise_range K v).1

/-- An operation keeps the range of the samples in `PCM`: it leaves them, or builds a burst. -/
theorem exec_pcm {i : Instr} {s t : State} (h : exec i s = .next t)
    (hs : ∀ x ∈ s.pcm, -32767 ≤ x.toInt) : ∀ x ∈ t.pcm, -32767 ≤ x.toInt := by
  by_cases hsame : t.pcm = s.pcm
  · rwa [hsame]
  obtain ⟨-, -, -, -, -, hpcm, -⟩ := Proofs.onlyListedOperationsWrite.1 i s t h
  have hi : i = .buildFrame ∨ i = .encodeMessage := by simpa using hpcm hsame
  obtain rfl | rfl := hi <;> cases h
  · exact buildBurst_pcm _ s
  · obtain ⟨c, b, henc⟩ := frameEncode_keeps s
    rw [conclude_eq, endOp_pcm]
    rcases encodeBurst_fst_cases Config.params.num s with hb | hb <;> rw [hb]
    · exact buildBurst_pcm _ _
    · rw [henc]; exact hs

/-! ## Keeping the invariant, update by update -/

namespace State.Inv

variable {s t : State}

/-- While no `RECEIVE` runs the device is not held (R30, R230). -/
theorem capOpen_of_running_ne (h : s.Inv) (hr : s.running ≠ some .receive) : s.capOpen = false :=
  Bool.eq_false_iff.mpr fun hc => hr (h.receive_runs.mpr hc)

/-- While a `RECEIVE` runs its state is one of codes 1 to 4 (R230). -/
theorem active_of_running (h : s.Inv) (hr : s.running = some .receive) : s.rxState.active = true :=
  h.capture_held.symm.trans (h.receive_runs.mp hr)

theorem with_host (h : s.Inv) (l : List HostAct) : { s with host := l }.Inv := { h with }

theorem with_cmd (h : s.Inv) (c : Option Byte) : { s with cmd := c }.Inv := { h with }

theorem with_env (h : s.Inv) {env : Env} (henv : s.env.Onward env) : { s with env := env }.Inv :=
  { h with
    releases_match := by
      rw [henv.opens_eq, henv.closes_eq]
      exact h.releases_match
    now_nonneg := h.now_nonneg.trans henv.now_le }

theorem with_draws (h : s.Inv) (d : Nat) : { s with env := { s.env with draws := d } }.Inv :=
  h.with_env ⟨le_rfl, rfl, rfl⟩

/-- An operation that holds no device ends (R268). -/
theorem endOp (h : s.Inv) (hcap : s.capOpen = false) (e : ErrCode) : (endOp e s).Inv :=
  { h with
    receive_runs := by simp [hcap]
    busy_not_done := fun hbusy => absurd rfl hbusy
    ok_no_error := of_decide_eq_true
    done_ok := fun _ => rfl }

/-- An operation of one step keeps the invariant. -/
theorem exec_atomic (h : s.Inv) {i : Instr} (hi : Rules.atomic i) (hidle : s.running = none)
    (hexec : exec i s = .next t) : t.Inv := by
  obtain ⟨hrom, hrec, hstate, hdeadline, hskip, hcap, henv⟩ := exec_atomic_keeps hi hexec
  have hclosed := h.capOpen_of_running_ne (by simp [hidle])
  have hpcm := exec_pcm hexec h.pcm_range
  obtain ⟨e, u, rfl⟩ := exec_atomic_ends hi hexec
  exact
    { rom_fixed := hrom.trans h.rom_fixed
      capture_held := by rw [hcap, hstate, h.capture_held]
      receive_runs := by rw [hcap, hclosed]; simp
      releases_match := by rw [henv, hcap, h.releases_match]
      skip_only_waiting := by rw [hcap, hskip, hstate]; exact h.skip_only_waiting
      busy_not_done := fun hbusy => absurd rfl hbusy
      ok_no_error := of_decide_eq_true
      done_ok := fun _ => rfl
      pcm_range := hpcm
      rec_bounded := by rw [hrec]; exact h.rec_bounded
      now_nonneg := by rw [henv]; exact h.now_nonneg
      deadline_nonneg := by rw [hdeadline]; exact h.deadline_nonneg }

/-- `TRANSMIT` starts, while no operation runs (R150). -/
theorem startTransmit (h : s.Inv) (hidle : s.running = none) (P : Params) : (startTransmit P s).Inv := by
  have hcap := h.capOpen_of_running_ne (by simp [hidle])
  obtain ⟨env, henv, ⟨wake, hstart⟩ | hstart⟩ := startTransmit_cases P s <;> rw [hstart]
  · exact
      { h.with_env henv with
        receive_runs := by simp [hcap]
        busy_not_done := fun _ => rfl
        done_ok := fun hdone => Bool.noConfusion hdone }
  · exact (h.with_env henv).endOp hcap _

/-- A step of the sleep of `TRANSMIT` (R150). -/
theorem transmitStep (h : s.Inv) {wake : Rat} (hr : s.running = some (.transmit wake)) :
    (transmitStep wake s).Inv := by
  have hcap := h.capOpen_of_running_ne (by simp [hr])
  obtain ⟨env, henv, hstep | hstep⟩ := transmitStep_cases wake s <;> rw [hstep]
  · exact h.with_env henv
  · exact (h.with_env henv).endOp hcap _

/-- `RECEIVE` enters, while no operation runs (R221). -/
theorem rxEnter (h : s.Inv) (hidle : s.running = none) : (rxEnter s).Inv := by
  have hcap := h.capOpen_of_running_ne (by simp [hidle])
  have hmatch : s.env.capOpens = s.env.capCloses := by simpa [hcap] using h.releases_match
  obtain ⟨env, hnow, hcloses, ⟨hopens, henter⟩ | ⟨hopens, henter⟩⟩ := rxEnter_cases s <;> rw [henter]
  all_goals
    have hnow' : 0 ≤ env.now := h.now_nonneg.trans hnow
    have hdeadline : 0 ≤ env.now + (s.timeoutS.toNat : Rat) := by positivity
  · exact
      { h with
        capture_held := rfl
        receive_runs := by simp
        releases_match := by simp [rxEntered, hopens, hcloses, hmatch]
        skip_only_waiting := fun _ _ => rfl
        busy_not_done := fun _ => rfl
        done_ok := fun hdone => Bool.noConfusion hdone
        rec_bounded := fun _ _ => Nat.zero_le _
        now_nonneg := hnow'
        deadline_nonneg := hdeadline }
  · have hentered : { rxEntered env s with diagState := .idle, rxState := .failed }.Inv :=
      { h with
        capture_held := hcap
        releases_match := by simp [rxEntered, hopens, hcloses, hmatch, hcap]
        skip_only_waiting := fun _ hskip => absurd rfl hskip
        rec_bounded := fun _ _ => Nat.zero_le _
        now_nonneg := hnow'
        deadline_nonneg := hdeadline }
    exact hentered.endOp hcap _

/-- What a step of `RECEIVE` writes before its outcome keeps the invariant. -/
theorem rxWork (h : s.Inv) {u : State} (hwork : RxWork Config.params s u) : u.Inv := by
  cases hwork with
  | waited k env hs henv => exact { h.with_env henv with skip_only_waiting := fun _ _ => hs }
  | recorded r env hs henv hr =>
    have hbound : ∀ cap, Config.params.recCapacity = some cap → r.length ≤ cap := by
      rcases hr with rfl | hr
      · exact h.rec_bounded
      · exact (recordingFits_iff _ _).mp hr
    exact { h.with_env henv with rec_bounded := hbound }
  | demodulated b i x hs => exact { h with }
  | decoded c k r m hs => exact { h with }

/-- A `RECEIVE` ends: the device is released, and the state is one without it (R228, R229). -/
theorem releases (h : s.Inv) (hheld : s.capOpen = true) (e : ErrCode) {x : RxState}
    (hx : x.active = false) : (Machine.endOp e { closeCapture s with rxState := x }).Inv :=
  { h with
    capture_held := hx.symm
    receive_runs := by simp
    releases_match := by simpa [hheld] using h.releases_match
    skip_only_waiting := fun hcap => Bool.noConfusion hcap
    busy_not_done := fun hbusy => absurd rfl hbusy
    ok_no_error := of_decide_eq_true
    done_ok := fun _ => rfl }

/-- Every outcome of a step of a running `RECEIVE` keeps the invariant. -/
theorem rxOutcome (h : s.Inv) (hr : s.running = some .receive) (houtcome : RxOutcome s t) : t.Inv := by
  have hheld := h.receive_runs.mp hr
  cases houtcome with
  | failed e _ =>
    have hcleared : { s with diagState := s.rxState, msg := [] }.Inv := { h with }
    rw [rxFail_held e hheld]
    exact hcleared.releases hheld e rfl
  | succeeded => exact h.releases hheld .none rfl
  | continues x hx hwaits =>
    exact
      { h with
        capture_held := hheld.trans hx.symm
        skip_only_waiting := fun hcap hskip => hwaits (h.skip_only_waiting hcap hskip) hskip }

/-- A step of the operation in progress keeps the invariant. -/
theorem advance (h : s.Inv) {r : Running} (hr : s.running = some r) :
    (advance Config.params r s).Inv := by
  cases r with
  | transmit wake => exact h.transmitStep hr
  | receive =>
    obtain ⟨u, hwork, houtcome⟩ := receiveStep_cases Config.params (h.active_of_running hr)
    have hru : u.running = some .receive := by cases hwork <;> exact hr
    exact (h.rxWork hwork).rxOutcome hru houtcome

/-- Starting a command, reserved codes included, keeps the invariant. -/
theorem startCommand (h : s.Inv) (hidle : s.running = none) {c : Byte}
    (hstart : startCommand c s = .next t) : t.Inv := by
  unfold Machine.startCommand at hstart
  split at hstart
  next i _ =>
    by_cases htransmit : i = .transmit
    · subst htransmit; cases hstart; exact h.startTransmit hidle _
    by_cases hreceive : i = .receive
    · subst hreceive; cases hstart; exact h.rxEnter hidle
    exact h.exec_atomic ⟨htransmit, hreceive⟩ hidle hstart
  next => cases hstart; exact h.endOp (h.capOpen_of_running_ne (by simp [hidle])) _

theorem reset : State.reset.Inv where
  rom_fixed := rfl
  capture_held := rfl
  receive_runs := by decide
  releases_match := rfl
  skip_only_waiting := fun _ hskip => absurd rfl hskip
  busy_not_done := fun hbusy => absurd rfl hbusy
  ok_no_error := fun _ => rfl
  done_ok := fun hdone => Bool.noConfusion hdone
  pcm_range := fun _ hx => absurd hx List.not_mem_nil
  rec_bounded := fun _ _ => Nat.zero_le _
  now_nonneg := le_rfl
  deadline_nonneg := le_rfl

/-- A host write of `REC` stays within the capacity (R58, log 23). -/
theorem storeRec (h : s.Inv) (v : List Sample) : (storeRec Config.params v s).Inv := by
  have hbound := fun cap hcap => length_storeRec_le (P := Config.params) (cap := cap) hcap v s
  rw [storeRec_keeps]
  exact { h.with_draws (Machine.storeRec Config.params v s).env.draws with rec_bounded := hbound }

/-- Every host action keeps the invariant while no operation runs, `Reset` included (R36, R290). -/
theorem hostAction (h : s.Inv) (hidle : s.running = none) (a : HostOp) : (hostAction a s).Inv := by
  cases a with
  | writeCmd | writeOpa | writeOpb | writeOpc | writeTimeout | writeMsg | writeBits => exact { h with }
  | writeMsgLen v =>
    have hmsg : { s with msg := resize Config.freeByte s.env.draws v.toNat s.msg }.Inv := { h with }
    exact hmsg.with_draws _
  | writeBitsLen v =>
    have hbits : { s with bits := resize Config.freeBit s.env.draws v.toNat s.bits }.Inv := { h with }
    exact hbits.with_draws _
  | writeRec v => exact h.storeRec v
  | writeRecLen v => exact (h.with_draws _).storeRec _
  | reset =>
    exact
      { reset with
        releases_match := by
          have := h.releases_match
          rwa [h.capOpen_of_running_ne (by simp [hidle])] at this
        now_nonneg := h.now_nonneg }

end State.Inv
end Sys2Proof.Machine

namespace Sys2Proof.Proofs

open Sys2Proof.Machine

/-- Settles O58: the device is not held, nothing runs, and every buffer is empty. -/
theorem resetMeetsTheInvariant : Obligations.ResetMeetsTheInvariant := State.Inv.reset

/-- Settles O59, by the cases of a step: each of them keeps the invariant. -/
theorem stepKeepsTheInvariant : Obligations.StepKeepsTheInvariant := by
  intro s t hinv h
  obtain ⟨r, hr, -, rfl⟩ | ⟨a, rest, -, -, -, rfl⟩ | ⟨c, hidle, -, hstart⟩ |
    ⟨a, rest, hidle, -, -, rfl⟩ | ⟨-, -, -, rfl⟩ := step_cases h
  · exact hinv.advance hr
  · exact hinv.with_host rest
  · exact (hinv.with_cmd none).startCommand hidle hstart
  · exact (hinv.with_host rest).hostAction hidle a.op
  · exact hinv

end Sys2Proof.Proofs
end

section
/-! PROOFS. The host's side: what its writes do, what it reads, and when `rxState` changes (spec 10_state.md
R27, R36, R37, R44). -/

namespace Sys2Proof.Machine

/-! ## Host writes of the lengths and of `REC` (R36, R58) -/

theorem storeRec_resize_fits (P : Params) {n : Nat} (hn : ∀ cap, P.recCapacity = some cap → n ≤ cap)
    (free : Nat → Sample) (d : Nat) (r : List Sample) (s : State) :
    storeRec P (resize free d n r) s = { s with recBuf := resize free d n r } :=
  storeRec_fits s ((recordingFits_iff P _).mpr (by simpa using hn))

/-! ## Register reads (R36, R37) -/

theorem countReg_of_lt {n : Nat} (h : n < 2 ^ 32) : countReg n = BitVec.ofNat 32 n := if_pos h

/-- An index beyond the last register of the table does not exist (R36). -/
theorem readReg_of_gt {s : State} : ∀ {i : Nat}, 13 < i → readReg s i = none
  | _ + 14, _ => rfl

theorem readReg_err (s : State) : readReg s 5 = some (.byte (Rules.errCode s.err)) := by
  cases h : s.err <;> simp [readReg, h, ErrCode.code, Rules.errCode]

theorem ofNat_rxCode (x : RxState) : BitVec.ofNat 3 x.code = Rules.rxCode x := by cases x <;> rfl

/-- The bits of the byte that five fields make up as `STATUS` does (R36). -/
theorem statusFields_bits (busy done ok cap : Bool) (x : RxState) :
    let v : Byte := BitVec.ofNat 8
      (busy.toNat + 2 * done.toNat + 4 * ok.toNat + 8 * cap.toNat + 16 * x.code)
    v.getLsbD 0 = busy ∧ v.getLsbD 1 = done ∧ v.getLsbD 2 = ok ∧ v.getLsbD 3 = cap ∧
      v.extractLsb' 4 3 = Rules.rxCode x ∧ v.getLsbD 7 = false := by
  cases x <;> revert busy done ok cap <;> decide

/-! ## The reference tables (R190) -/

/-- Each table has one value per sample of a symbol (R25). -/
theorem length_refTables (K : NumOps) :
    (refTables K).sin0.length = 1764 ∧ (refTables K).cos0.length = 1764 ∧
    (refTables K).sin1.length = 1764 ∧ (refTables K).cos1.length = 1764 := by
  simp [refTables]

/-- The values of the tables are the sine and cosine of the angle of the two tones (R190). -/
theorem getElem?_refTables (K : NumOps) {i : Nat} (hi : i < 1764) :
    (refTables K).sin0[i]? = some (K.sine (K.angle 2000 i)) ∧
    (refTables K).cos0[i]? = some (K.cosine (K.angle 2000 i)) ∧
    (refTables K).sin1[i]? = some (K.sine (K.angle 3000 i)) ∧
    (refTables K).cos1[i]? = some (K.cosine (K.angle 3000 i)) := by
  simp [refTables, hi]

end Sys2Proof.Machine

namespace Sys2Proof.Proofs

open Sys2Proof.Machine

/-- Settles O7: each write is a `resize`, which for `REC` is cut to the capacity. -/
theorem lengthWritesKeepTheElements : Obligations.LengthWritesKeepTheElements := by
  intro s p rest v hidle hcmd
  refine ⟨fun hhost => ?_, fun hhost => ?_, fun hhost => ?_⟩ <;>
    refine ⟨_, step_host hidle hcmd hhost, ?_⟩
  · exact ⟨length_resize .., fun i hv hi => getElem?_resize _ _ hv hi, rfl⟩
  · exact ⟨length_resize .., fun i hv hi => getElem?_resize _ _ hv hi, rfl⟩
  · refine ⟨fun hcap => ?_, fun cap hcap => length_storeRec_le hcap _ _, storeRec_keeps ..⟩
    have hstored := storeRec_resize_fits Config.params hcap Config.freeRecSample s.env.draws s.recBuf
    simp only [hostAction, hstored]
    exact ⟨length_resize .., fun i hv hi => getElem?_resize _ _ hv hi⟩

/-- Settles O53: of the commands only `RECEIVE`'s entry writes `rxState`, and of the host's actions only
`Reset`. -/
theorem rxStateWrittenOnlyByReceive : Obligations.RxStateWrittenOnlyByReceive := by
  intro s t h hne
  obtain ⟨r, hr, -, rfl⟩ | ⟨a, rest, -, -, -, rfl⟩ | ⟨c, hidle, hcmd, hstart⟩ |
    ⟨a, rest, hidle, -, hhost, rfl⟩ | ⟨-, -, -, rfl⟩ := step_cases h
  · cases r with
    | receive => exact .inl hr
    | transmit wake =>
      obtain ⟨env, -, hk | hk⟩ := transmitStep_cases wake s <;> simp [advance, hk] at hne
  · exact absurd rfl hne
  · right; left
    unfold startCommand at hstart
    split at hstart
    next i hi =>
      obtain ⟨-, -, -, -, -, -, -, -, -, -, hrx, -⟩ :=
        onlyListedOperationsWrite.1 i { s with cmd := none } t hstart
      obtain rfl : i = .receive := hrx (.inl hne)
      refine ⟨hidle, by rw [hcmd, ← encode_of_decode hi]; rfl, ?_⟩
      obtain ⟨env, -, -, ⟨-, hk⟩ | ⟨-, hk⟩⟩ := rxEnter_cases { s with cmd := none } <;>
        cases hk.symm.trans (Host.Outcome.next.inj hstart)
      · exact .inl rfl
      · exact .inr rfl
    next => cases hstart; exact absurd rfl hne
  · right; right
    cases ha : a.op
    case reset => exact ⟨hidle, rfl, a, rest, hhost, ha⟩
    case writeRec v => rw [ha, hostAction, storeRec_keeps] at hne; exact absurd rfl hne
    case writeRecLen v => rw [ha, hostAction, storeRec_keeps] at hne; exact absurd rfl hne
    all_goals rw [ha] at hne; exact absurd rfl hne
  · exact absurd rfl hne

/-- Settles O4: the pending code starts its operation. -/
theorem stepRunsDecodedCommand : Obligations.StepRunsDecodedCommand := by
  intro i c s hidle hcmd hdecode
  rw [step_command hidle hcmd, startCommand, hdecode]

/-- Settles O6: an idle step with a host action is `hostAction`. -/
theorem hostWritesTakeEffectWhenIdle : Obligations.HostWritesTakeEffectWhenIdle := by
  intro s p rest hidle hcmd
  refine ⟨?_, ?_, ?_, ?_, ?_, ?_, ?_, fun v hhost => ⟨fun hcap => ?_, ?_⟩⟩
  case refine_8 =>
    rw [step_host hidle hcmd hhost]
    exact congrArg _ (storeRec_fits _ ((recordingFits_iff ..).mpr hcap))
  case refine_9 =>
    exact ⟨_, step_host hidle hcmd hhost, fun cap hcap => length_storeRec_le hcap _ _, storeRec_keeps ..⟩
  all_goals exact fun v hhost => step_host hidle hcmd hhost

/-- Settles O8: while an operation runs, an action that does not wait and is not `Reset` is used up. -/
theorem hostWritesWhileBusyAreRefused : Obligations.HostWritesWhileBusyAreRefused := by
  intro s a rest hbusy hhost himpatient hwrite
  rw [step_hostBusy (Option.isSome_iff_ne_none.mp hbusy) hhost himpatient]
  cases ha : a.op
  case reset => exact absurd ha hwrite
  all_goals rfl

/-- Settles O11: the tables by the value at each index, everything else by evaluation. -/
theorem resetValuesOfTheBlock : Obligations.ResetValuesOfTheBlock := by
  have hzero : NumVal.zero = Config.params.num.num 0 := (NumOps.num_zero _).symm
  have hread : some (RegValue.num .zero) = some (.num (Config.params.num.num 0)) := by rw [hzero]
  obtain ⟨hsin0, hcos0, hsin1, hcos1⟩ := length_refTables Config.params.num
  exact ⟨rfl, hzero, rfl, rfl, rfl, rfl, rfl, rfl, rfl, rfl, rfl, rfl, rfl, rfl, rfl, rfl, rfl, rfl,
    hread, hread, rfl, rfl, rfl, rfl, rfl, hsin0, hcos0, hsin1, hcos1,
    fun _ hi => getElem?_refTables Config.params.num hi⟩

/-- Settles O12: `STATUS` is made up of its fields. -/
theorem statusByteFields : Obligations.StatusByteFields := fun s =>
  ⟨s.statusByte, rfl, statusFields_bits s.busy s.done s.ok s.capOpen s.rxState⟩

/-- Settles O60, register by register. -/
theorem registerReadsByIndex : Obligations.RegisterReadsByIndex := by
  intro s
  have hcount : ∀ {m n : Nat}, m = n → n < 2 ^ 32 →
      some (RegValue.word (countReg m)) = some (.word (BitVec.ofNat 32 n)) := by
    rintro m _ rfl hlt
    rw [countReg_of_lt hlt]
  exact ⟨rfl, rfl, rfl, rfl, ⟨_, rfl⟩, readReg_err s, rfl, rfl, rfl, rfl,
    fun _ => hcount, fun _ => hcount, fun _ => hcount, fun _ => hcount, fun _ => readReg_of_gt,
    ofNat_rxCode s.diagState, countReg_of_lt, rfl⟩

end Sys2Proof.Proofs
end

section
/-! PROOFS. The command word: the decoder answers on exactly the codes of the operation map (spec
30_encoding.md R84 to R87). -/

namespace Sys2Proof

/-! ## The fields of a command word (R84) -/

theorem commandUnit_eq (c : Byte) : commandUnit c = c.toNat / 16 := by
  simp [commandUnit, Nat.shiftRight_eq_div_pow]

theorem commandFn_eq (c : Byte) : commandFn c = c.toNat % 16 := by
  rw [commandFn, BitVec.toNat_and]
  exact Nat.and_two_pow_sub_one_eq_mod c.toNat 4

/-- A unit has an operation for exactly its functions; a unit that does not exist has none (R85, R86). -/
theorem decodeFields_isSome (u f : Nat) : (decodeFields u f).isSome = decide (f < unitFunctions u) := by
  match u with
  | 0 => rfl
  | 1 => match f with | 0 | 1 | 2 | 3 => rfl | _ + 4 => rfl
  | 2 => match f with | 0 | 1 => rfl | _ + 2 => rfl
  | 3 => match f with | 0 | 1 | 2 | 3 | 4 | 5 => rfl | _ + 6 => rfl
  | 4 => match f with | 0 | 1 => rfl | _ + 2 => rfl
  | 5 => match f with | 0 | 1 | 2 | 3 => rfl | _ + 4 => rfl
  | 6 => match f with | 0 => rfl | _ + 1 => rfl
  | _ + 7 => rfl

/-- Only the units 1 to 6 have functions (R86). -/
theorem unit_of_lt_unitFunctions : ∀ {u f : Nat}, f < unitFunctions u → 1 ≤ u ∧ u ≤ 6
  | 1, _, _ | 2, _, _ | 3, _, _ | 4, _, _ | 5, _, _ | 6, _, _ => by decide

/-- A code is well formed exactly if its fields name an operation (R86). -/
theorem commandWellFormed_eq (c : Byte) :
    commandWellFormed c = (decodeFields (commandUnit c) (commandFn c)).isSome := by
  have hunit := @unit_of_lt_unitFunctions (c.toNat / 16) (c.toNat % 16)
  rw [decodeFields_isSome, commandUnit_eq, commandFn_eq, Bool.eq_iff_iff]
  simpa [commandWellFormed, commandUnitOk, commandFnOk] using hunit

/-! ## The decoder (R85, R86) -/

theorem decode_encode (i : Instr) : decode (encode i) = .ok i := by cases i <;> rfl

theorem decode_of_wellFormed {c : Byte} (h : commandWellFormed c = true) : ∃ i, decode c = .ok i := by
  rw [commandWellFormed_eq] at h
  obtain ⟨i, hi⟩ := Option.isSome_iff_exists.mp h
  exact ⟨i, by rw [decode, hi]⟩

theorem decode_of_reserved {c : Byte} (h : commandWellFormed c = false) :
    decode c = .error (.reservedCode c) := by
  rw [commandWellFormed_eq, Option.isSome_eq_false_iff, Option.isNone_iff_eq_none] at h
  rw [decode, h]

namespace Machine

/-- A pending code that is reserved starts no operation (R86). -/
theorem step_reserved {s : State} {c : Byte} (hidle : s.running = none) (hcmd : s.cmd = some c)
    (h : commandWellFormed c = false) :
    step s = .next (Rules.endsIn .illegalCommand { s with cmd := none }) := by
  rw [step_command hidle hcmd, startCommand, decode_of_reserved h]
  rfl

end Machine

end Sys2Proof

namespace Sys2Proof.Proofs

open Sys2Proof.Machine

/-- Settles O1, operation by operation. -/
theorem decodeEncodeAgree : Obligations.DecodeEncodeAgree := fun i _ => decode_encode i

/-- Settles O2: the fields of a well-formed code, and of no other, name an operation, whose code it is. -/
theorem decodeRefusesReservedCodes : Obligations.DecodeRefusesReservedCodes := by
  refine fun c => ⟨fun h => ?_, decode_of_reserved⟩
  obtain ⟨i, hi⟩ := decode_of_wellFormed h
  exact ⟨i, hi, encode_of_decode hi⟩

/-- Settles O3: the codes of the rows are those of the encoder. -/
theorem commandWordsOfTheMap : Obligations.CommandWordsOfTheMap :=
  ⟨decode_encode .crcInit, decode_encode .crcByte, decode_encode .crcRead, decode_encode .crcBlock,
    decode_encode .frameEncode, decode_encode .frameDecode,
    decode_encode .modReset, decode_encode .tone, decode_encode .modBits, decode_encode .buildFrame,
    decode_encode .encodeMessage, decode_encode .transmit,
    decode_encode .goertzelPower, decode_encode .toneDetect,
    decode_encode .symEnergy, decode_encode .offsetSearch, decode_encode .bitExtract,
    decode_encode .demodulate, decode_encode .receive⟩

/-- Settles O5: the count by evaluation over the codes, the rest because the decoder refuses them. -/
theorem reservedCommandChangesOnlyStatus : Obligations.ReservedCommandChangesOnlyStatus :=
  ⟨by decide +kernel, fun _ h =>
    ⟨decode_of_reserved h, fun _ hidle hcmd => step_reserved hidle hcmd h⟩⟩

end Sys2Proof.Proofs
end

section
/-! PROOFS. The frame that `FRAME_ENCODE` writes, in bits, and the CRC as a bit-serial computation (spec
30_encoding.md R70, R74, 40_crc.md R103, 41_frame_codec.md R123). -/

namespace Sys2Proof.Machine

open Sys2Proof.Rules

/-! ## The CRC bit by bit (R102, R103) -/

theorem crcBit_eq (c : U16) (d : Bit) :
    crcBit c d = (c <<< 1) ^^^ (if xor (c.getLsbD 15) d then Config.crcPoly else 0#16) := by
  unfold crcBit
  split <;> simp [Config.crcPoly]

/-- One shift absorbs the top bit of what was XORed in, and moves the rest up by one (R102, R103). -/
theorem crcShift_xor_eq_crcBit (c v : U16) :
    crcShift (c ^^^ v) = crcBit c (v.getLsbD 15) ^^^ (v <<< 1) := by
  rw [crcShift_eq, crcBit_eq, BitVec.getLsbD_xor, BitVec.shiftLeft_xor_distrib]
  ac_rfl

/-- `n` shifts absorb the top `n` bits of what was XORed in, most significant first (R103). -/
theorem crcShifts_xor_eq_foldl (n : Nat) (c v : U16) :
    crcShifts n (c ^^^ v) = ((List.range n).map v.getMsbD).foldl crcBit c ^^^ (v <<< n) := by
  induction n with
  | zero => simp [crcShifts]
  | succ n ih =>
    have htop : (v <<< n).getLsbD 15 = v.getMsbD n := by
      change (v <<< n).getMsbD 0 = _
      rw [BitVec.getMsbD_shiftLeft, Nat.zero_add]
    rw [crcShifts_succ, ih, crcShift_xor_eq_crcBit, htop, List.range_succ, List.map_append,
      List.foldl_append, BitVec.shiftLeft_add]
    rfl

/-- A byte is absorbed bit by bit (R103, form C). -/
theorem crcByte_eq_foldl (c : U16) (b : Byte) : crcByte c b = (bitsOf [b]).foldl crcBit c := by
  have htop : (List.range 8).map (b.setWidth 16 <<< 8 : U16).getMsbD = bitsOf [b] := by
    simp only [bitsOf, List.flatMap_singleton, List.map_inj_left, List.mem_range]
    intro i hi
    have hlow : 15 - i - 8 = 7 - i := by omega
    have hlt : i < 16 ∧ 15 - i < 16 ∧ ¬ 15 - i < 8 ∧ 7 - i < 16 := by omega
    simp [BitVec.getMsbD, hlow, hlt]
  have hout : (b.setWidth 16 <<< 8 : U16) <<< 8 = 0#16 := by
    rw [← BitVec.shiftLeft_add, BitVec.shiftLeft_eq_zero (by decide)]
  rw [crcByte, crcShifts_xor_eq_foldl, htop, hout, BitVec.xor_zero]

/-- So is a byte list (R103, form C). -/
theorem foldl_crcByte_eq (bytes : List Byte) (c : U16) :
    bytes.foldl crcByte c = (bitsOf bytes).foldl crcBit c := by
  simp only [bitsOf, List.foldl_flatMap]
  congr 1
  funext c b
  simpa [bitsOf] using crcByte_eq_foldl c b

theorem crc16_eq (bytes : List Byte) : crc16 bytes = crcOfBits (bitsOf bytes) :=
  foldl_crcByte_eq bytes Config.crcInit

/-! ## The frame (R52, R70, R123) -/

theorem bytesToBits_eq (bytes : List Byte) : bytesToBits bytes = bitsOf bytes := rfl

theorem bigEndian_eq (v : U16) : bigEndian v = twoBytes v.toNat := by
  have hhigh : highByte v = BitVec.ofNat 8 (v.toNat / 256) := by
    simp [highByte, BitVec.extractLsb', Nat.shiftRight_eq_div_pow]
  have hlow : lowByte v = BitVec.ofNat 8 (v.toNat % 256) := by
    apply BitVec.eq_of_toNat_eq
    simp [lowByte]
  rw [bigEndian, hhigh, hlow, twoBytes]

/-- The length field and the payload of a message that has an encoding (R70, R72). -/
theorem frameHead_eq {m : List Byte} (h : m.length ≤ 65535) : frameHead m = twoBytes m.length ++ m := by
  rw [frameHead, bigEndian_eq, BitVec.toNat_ofNat, Nat.mod_eq_of_lt (by omega)]

theorem frameBytes_eq {m : List Byte} (h : m.length ≤ 65535) :
    frameBytes m = twoBytes m.length ++ m ++ twoBytes (crc16 (frameHead m)).toNat := by
  rw [frameBytes, bigEndian_eq, frameHead_eq h]

/-! ## `FRAME_ENCODE` (R123) -/

/-- A message whose length fits the length field is encoded. -/
theorem exec_frameEncode_fits {s : State} (h : s.msg.length ≤ 65535) : exec .frameEncode s =
    .next (endsOk { s with crc := crc16 (frameHead s.msg), bits := bytesToBits (frameBytes s.msg) }) := by
  rw [exec, execFrameEncode, frameEncode, if_pos ((messageLengthOk_iff _).mpr h)]
  rfl

/-- A longer one is refused, with nothing changed (R268). -/
theorem exec_frameEncode_refused {s : State} (h : 65535 < s.msg.length) :
    exec .frameEncode s = .next (endsIn .operandRange s) := by
  rw [exec, execFrameEncode, frameEncode, if_neg (mt (messageLengthOk_iff _).mp (by omega))]
  rfl

end Sys2Proof.Machine

namespace Sys2Proof.Proofs

open Sys2Proof.Machine

/-- Settles O21: the frame's bytes are those of the rule, and its CRC is the bit-serial one. -/
theorem frameEncodeWritesTheFrame : Obligations.FrameEncodeWritesTheFrame := by
  refine fun s => ⟨exec_frameEncode_refused, fun h => ⟨_, exec_frameEncode_fits h, ?_, ?_, ?_, rfl⟩⟩
  · exact (bytesToBits_eq _).trans (congrArg _ (frameBytes_eq h))
  · exact (length_bytesToBits _).trans (congrArg _ (length_frameBytes s.msg))
  · exact (crc16_eq _).trans (by rw [frameHead_eq h])

end Sys2Proof.Proofs
end

section
/-! PROOFS. What every burst has in common, whatever `NUM` is (spec 20_memory.md R51, 30_encoding.md R76,
46_numerics.md R257). -/

namespace Sys2Proof.Machine

variable (K : NumOps)

/-- A tone that starts at phase 0 starts with `num(0)` (R257, log 2). -/
theorem toneValues_head (f n : Nat) : (toneValues K .zero f (n + 1))[0]? = some .zero := by
  unfold toneValues
  split
  · rfl
  · simp [toneValue]

theorem playBurst_fbuf_head (s : State) : (playBurst K s).fbuf[0]? = some .zero := by
  obtain ⟨l, h, -⟩ := playBurst_fbuf K s
  rw [h, List.getElem?_append_left (by rw [length_toneValues]; decide), toneValues_head]

/-- After the start tone's 11025 values come 2205 of silence (R76). -/
theorem playBurst_fbuf_silence (s : State) {i : Nat} (hstart : 11025 ≤ i) (hend : i < 13230) :
    (playBurst K s).fbuf[i]? = some .zero := by
  obtain ⟨l, h, -⟩ := playBurst_fbuf K s
  have hin : i - 11025 < 2205 := by omega
  rw [h, List.getElem?_append_right ((length_toneValues ..).trans_le hstart), length_toneValues,
    List.getElem?_append_left (hin.trans_eq List.length_replicate.symm),
    List.getElem?_replicate_of_lt hin]

/-- Where the working signal is `num(0)` the burst's sample is 0 (R146). -/
theorem buildBurst_pcm_of_zero {s : State} {i : Nat} (h : (playBurst K s).fbuf[i]? = some .zero) :
    (buildBurst K s).pcm[i]? = some 0#16 := by
  rw [buildBurst_eq, List.getElem?_map, h, Option.map_some, quantise_zero]

theorem length_buildBurst_pcm (s : State) :
    (buildBurst K s).pcm.length = 17640 + 1764 * s.bits.length := by
  rw [buildBurst_eq, List.length_map, length_playBurst_fbuf]

/-- No sample of a burst is −32768 (R51, R146). -/
theorem buildBurst_pcm_range (s : State) :
    ∀ x ∈ (buildBurst K s).pcm, -32767 ≤ x.toInt ∧ x.toInt ≤ 32767 := by
  rw [buildBurst_eq]
  intro x hx
  obtain ⟨v, -, rfl⟩ := List.mem_map.mp hx
  exact quantise_range K v

end Sys2Proof.Machine

namespace Sys2Proof.Proofs

open Sys2Proof.Machine

/-- Settles O32: the layout of the working signal, sample by sample through the quantiser. -/
theorem burstLayoutForEveryNum : Obligations.BurstLayoutForEveryNum := fun s =>
  ⟨_, rfl, length_buildBurst_pcm _ s, buildBurst_pcm_of_zero _ (playBurst_fbuf_head _ s),
    fun _ hstart hend => buildBurst_pcm_of_zero _ (playBurst_fbuf_silence _ s hstart hend),
    buildBurst_pcm_range _ s⟩

end Sys2Proof.Proofs
end

section
/-! PROOFS. The CRC generator: its operations as bit-serial computations, and the two laws of the CRC of a byte
list (spec 40_crc.md R101 to R107). -/

namespace Sys2Proof.Machine

open Sys2Proof.Rules

/-! ## A register that absorbs its own bits (R107) -/

theorem crcShifts_zero (n : Nat) : crcShifts n 0#16 = 0#16 := by
  simpa using crcShifts_xor n 0#16 0#16

/-- The bit absorbed cancels the bit shifted out, so the register only moves up (R103). -/
theorem foldl_crcBit_own_bits (n : Nat) (c : U16) :
    ((List.range n).map c.getMsbD).foldl crcBit c = c <<< n := by
  have h := crcShifts_xor_eq_foldl n c c
  rw [BitVec.xor_self, crcShifts_zero] at h
  exact BitVec.xor_eq_zero_iff.mp h.symm

/-- The bits of a 16-bit field, most significant first (R52, R53). -/
theorem bitsOf_twoBytes (v : U16) : bitsOf (twoBytes v.toNat) = (List.range 16).map v.getMsbD := by
  rw [← bigEndian_eq, ← bytesToBits_eq]
  simp [bigEndian, highByte, lowByte, byteBits, List.range_succ, BitVec.getMsbD]

/-- A register that absorbs its own two bytes is left at 0 (R107). -/
theorem foldl_crcByte_own_bytes (c : U16) : (twoBytes c.toNat).foldl crcByte c = 0#16 := by
  rw [foldl_crcByte_eq, bitsOf_twoBytes, foldl_crcBit_own_bits, BitVec.shiftLeft_eq_zero (by decide)]

/-! ## A changed byte (R107) -/

/-- XOR with one bit changes a byte. -/
theorem byte_xor_twoPow_ne (b : Byte) {k : Nat} (hk : k < 8) : b ^^^ BitVec.ofNat 8 (2 ^ k) ≠ b := by
  intro h
  have hbit : (b ^^^ BitVec.ofNat 8 (2 ^ k)).getLsbD k = b.getLsbD k := by rw [h]
  simp [hk, BitVec.getLsbD_ofNat, -BitVec.ofNat_pow, -BitVec.getLsbD_eq_getElem] at hbit

/-- Byte lists that differ in one byte have different CRCs (R107). -/
theorem crc16_ne_of_byte_ne (front back : List Byte) {a b : Byte} (h : a ≠ b) :
    crc16 (front ++ a :: back) ≠ crc16 (front ++ b :: back) := by
  intro heq
  rw [crc16_append, crc16_append] at heq
  exact h (crcByte_right_injective (foldl_crcByte_injective back heq))

end Sys2Proof.Machine

namespace Sys2Proof.Proofs

open Sys2Proof.Machine

/-- Settles O17: the byte operand, absorbed bit by bit. -/
theorem crcByteIsBitSerial : Obligations.CrcByteIsBitSerial := by
  intro s
  rw [← crcByte_eq_foldl, ← byteOperand_eq]
  rfl

/-- Settles O18: the CRC of the message, bit by bit, in both registers. -/
theorem crcBlockIsBitSerial : Obligations.CrcBlockIsBitSerial := by
  intro s
  rw [← crc16_eq, BitVec.ofNat_toNat]
  rfl

/-- Settles O19: the register holds the CRC when it absorbs the CRC's two bytes. -/
theorem crcResidueIsZero : Obligations.CrcResidueIsZero := fun bytes =>
  (crc16_append bytes _).trans (foldl_crcByte_own_bytes (crc16 bytes))

/-- Settles O20: a flipped bit changes its byte, and absorbing a byte can be undone. -/
theorem crcCatchesEverySingleBitError : Obligations.CrcCatchesEverySingleBitError :=
  fun front back b _ hk => crc16_ne_of_byte_ne front back (byte_xor_twoPow_ne b hk)

/-- Settles O16: `CRC_READ` zero-extends the register into `RES_I`. -/
theorem crcInitAndRead : Obligations.CrcInitAndRead := by
  refine fun s => ⟨rfl, ?_⟩
  rw [BitVec.ofNat_toNat]
  rfl

end Sys2Proof.Proofs
end

section
/-! PROOFS. Decoding a frame: the fields of a bit sequence, the outcomes of `FRAME_DECODE`, the round trip and
the frame with one flipped bit (spec 41_frame_codec.md R121 to R129). -/

namespace Sys2Proof.Machine

open Sys2Proof.Rules

/-! ## The number a bit sequence spells (R121) -/

theorem numberOf_concat (bits : List Bit) (b : Bit) :
    numberOf (bits ++ [b]) = Nat.bit b (numberOf bits) := by
  cases b <;> simp [numberOf, Nat.bit]

theorem numberOf_append (a b : List Bit) :
    numberOf (a ++ b) = numberOf a * 2 ^ b.length + numberOf b := by
  induction b using List.reverseRecOn with
  | nil => simp [numberOf]
  | append_singleton b d ih =>
    rw [← List.append_assoc, numberOf_concat, numberOf_concat, ih, Nat.bit_val, Nat.bit_val,
      List.length_append, List.length_singleton, Nat.pow_succ]
    ring

theorem numberOf_byteBits : ∀ b : Byte, numberOf (byteBits b) = b.toNat := by decide +kernel

/-- Two bytes spell the value of the field they hold (R52). -/
theorem numberOf_twoByteBits (hi lo : Byte) : numberOf (bytesToBits [hi, lo]) = fieldValue hi lo := by
  simp [numberOf_append, numberOf_byteBits, fieldValue]

/-- A 16-bit field spells the value it was written from (R52, R121). -/
theorem numberOf_bigEndian (v : U16) : numberOf (bytesToBits (bigEndian v)) = v.toNat :=
  (numberOf_twoByteBits _ _).trans (bigEndian_value v)

/-- Two bytes are the field of their value (R52). -/
theorem twoBytes_fieldValue (hi lo : Byte) : twoBytes (fieldValue hi lo) = [hi, lo] := by
  have hlo : lo.toNat < 256 := lo.isLt
  have hdiv : (hi.toNat * 256 + lo.toNat) / 256 = hi.toNat := by omega
  have hmod : (hi.toNat * 256 + lo.toNat) % 256 = lo.toNat := by omega
  simp [twoBytes, fieldValue, hdiv, hmod]

/-- Sixteen bits are the field of the number they spell (R52, R121). -/
theorem bitsOf_twoBytes_numberOf {bits : List Bit} (h : bits.length = 16) :
    bitsOf (twoBytes (numberOf bits)) = bits := by
  obtain ⟨hi, lo, hbytes⟩ := List.length_eq_two.mp (length_bitsToBytes (n := 2) h)
  have hbits : bytesToBits [hi, lo] = bits := by rw [← hbytes, bytesToBits_bitsToBytes (n := 2) h]
  rw [← hbits, numberOf_twoByteBits, twoBytes_fieldValue, ← bytesToBits_eq]

/-! ## Whole bytes of a bit sequence (R120, R121) -/

theorem bytesToBits_injective : Function.Injective bytesToBits :=
  Function.LeftInverse.injective bitsToBytes_bytesToBits

/-- Dropping bytes of an encoding drops their bits. -/
theorem drop_bytesToBits (n : Nat) (bytes : List Byte) :
    (bytesToBits bytes).drop (8 * n) = bytesToBits (bytes.drop n) := by
  apply List.append_cancel_left (as := bytesToBits (bytes.take n))
  rw [← bytesToBits_append, List.take_append_drop, ← take_bytesToBits, List.take_append_drop]

/-- A cut of a prefix is that cut of the whole sequence. -/
theorem take_drop_take {bits : List Bit} {i j k : Nat} (h : i + j ≤ k) :
    ((bits.take k).drop i).take j = (bits.drop i).take j := by
  rw [List.drop_take, List.take_take, Nat.min_eq_left (by omega)]

/-- Two bytes at `i` hold the number their bits spell (R124). -/
theorem fieldAt_eq {bytes : List Byte} {i : Nat} (h : i + 1 < bytes.length) :
    fieldAt bytes i = numberOf (((bytesToBits bytes).drop (8 * i)).take 16) := by
  have htwo : (bytes.drop i).take 2 = [bytes[i], bytes[i + 1]] := by
    rw [List.drop_eq_getElem_cons (by omega), List.drop_eq_getElem_cons h]
    rfl
  rw [drop_bytesToBits, take_bytesToBits 2, htwo, numberOf_twoByteBits, fieldAt,
    List.getD_eq_getElem _ _ (by omega), List.getD_eq_getElem _ _ h]

/-! ## The fields of a frame (R70, R124) -/

/-- The length field is the number the first 16 bits spell (R124). -/
theorem lengthField_eq {bits : List Bit} (h : 16 ≤ bits.length) :
    lengthField bits = numberOf (bits.take 16) := by
  have hlen : (bits.take 16).length = 8 * 2 := by rw [List.length_take]; omega
  rw [lengthField, fieldAt_eq (by rw [length_bitsToBytes hlen]; decide), bytesToBits_bitsToBytes hlen,
    List.drop_zero, List.take_take, Nat.min_self]

/-- Steps 4 and 5 of R124, in the bits of the sequence. -/
theorem frameCheck_eq {n : Nat} {s : State} (h : 16 + 8 * n + 16 ≤ s.bits.length) :
    let calc' := crcOfBits (s.bits.take (16 + 8 * n))
    let rx := numberOf ((s.bits.drop (16 + 8 * n)).take 16)
    let seen := { s with crc := calc', diagCrcCalc := calc', diagCrcRx := BitVec.ofNat 16 rx }
    ∃ m : List Byte, bitsOf m = (s.bits.drop 16).take (8 * n) ∧ m.length = n ∧
      frameCheck n s =
        if calc'.toNat = rx then ({ seen with msg := m }, .none) else (noMessage seen, .crcMismatch) := by
  have hcount : frameBitCount n = 16 + 8 * n + 16 := rfl
  have hlen : (s.bits.take (frameBitCount n)).length = 8 * (n + 4) := by
    rw [List.length_take]; omega
  have hbits := bytesToBits_bitsToBytes hlen
  have hbytes := length_bitsToBytes hlen
  have hhead : 8 * (n + 2) = 16 + 8 * n := by omega
  generalize hframe : bitsToBytes (s.bits.take (frameBitCount n)) = frame at hbits hbytes
  have hcalc : crc16 (frame.take (n + 2)) = crcOfBits (s.bits.take (16 + 8 * n)) := by
    rw [crc16_eq, ← bytesToBits_eq, ← take_bytesToBits, hbits, hhead, List.take_take,
      Nat.min_eq_left (by omega)]
  have hrx : fieldAt frame (n + 2) = numberOf ((s.bits.drop (16 + 8 * n)).take 16) := by
    rw [fieldAt_eq (by omega), hbits, hhead, take_drop_take (by omega)]
  refine ⟨(frame.drop 2).take n, ?_, ?_, ?_⟩
  · rw [← bytesToBits_eq, ← take_bytesToBits, ← drop_bytesToBits, hbits, take_drop_take (by omega)]
  · rw [List.length_take, List.length_drop]; omega
  · rw [frameCheck, hframe, hcalc, hrx]

/-- What a length field that can be right leaves to do: the test of step 3, then steps 4 and 5 (R124). -/
theorem frameDecode_of_length {s : State} (h : 32 ≤ s.bits.length) (hmin : 1 ≤ numberOf (s.bits.take 16))
    (hmax : numberOf (s.bits.take 16) ≤ 8192) : frameDecode s =
      let n := numberOf (s.bits.take 16)
      let seen := { s with diagNBits := s.bits.length }
      if s.bits.length < frameBitCount n then (noMessage seen, .insufficientBits) else frameCheck n seen := by
  have hrange : ¬ (numberOf (s.bits.take 16) = 0 ∨ 8192 < numberOf (s.bits.take 16)) := by omega
  rw [frameDecode, if_neg (Nat.not_lt.mpr h), lengthField_eq (bits := s.bits) (by omega), if_neg hrange]

/-! ## `FRAME_DECODE` as the host issues it (R124, R268) -/

theorem exec_frameDecode_fails {s t : State} {e : ErrCode} (h : frameDecode s = (t, e)) (he : e ≠ .none) :
    exec .frameDecode s = .next (endsIn e { t with diagState := .idle }) := by
  rw [exec, execFrameDecode, h]
  simp [he, endsIn, endOp]

theorem exec_frameDecode_succeeds {s t : State} (h : frameDecode s = (t, .none)) :
    exec .frameDecode s = .next (endsOk t) := by
  rw [exec, execFrameDecode, h]
  rfl

end Sys2Proof.Machine

namespace Sys2Proof.Proofs

open Sys2Proof.Machine

/-- Settles O22: the tests of `frameDecode` one after the other, its fields read off the bits. -/
theorem frameDecodeOutcomes : Obligations.FrameDecodeOutcomes := by
  intro s
  refine ⟨fun h => ?_, fun h hn => ?_, fun h hmin hmax hcut => ?_, fun hmin hmax hfits hne => ?_,
    fun hmin hmax hfits heq => ?_⟩
  · exact exec_frameDecode_fails (by rw [frameDecode, if_pos h]) (by decide)
  · rw [← lengthField_eq (by omega)] at hn
    exact exec_frameDecode_fails (by rw [frameDecode, if_neg (Nat.not_lt.mpr h), if_pos hn]) (by decide)
  · have hdecode := (frameDecode_of_length h hmin hmax).trans (if_pos hcut)
    exact exec_frameDecode_fails hdecode (by decide)
  · have hdecode := (frameDecode_of_length (by omega) hmin hmax).trans (if_neg (Nat.not_lt.mpr hfits))
    obtain ⟨m, -, -, hcheck⟩ := frameCheck_eq (s := { s with diagNBits := s.bits.length }) hfits
    exact exec_frameDecode_fails ((hdecode.trans hcheck).trans (if_neg hne)) (by decide)
  · have hdecode := (frameDecode_of_length (by omega) hmin hmax).trans (if_neg (Nat.not_lt.mpr hfits))
    obtain ⟨m, hbits, hlen, hcheck⟩ := frameCheck_eq (s := { s with diagNBits := s.bits.length }) hfits
    exact ⟨m, hbits, hlen, exec_frameDecode_succeeds ((hdecode.trans hcheck).trans (if_pos heq))⟩

end Sys2Proof.Proofs
end

section
/-! PROOFS. Decoding what was encoded: the fields of an encoded frame, the round trip, and the frame with one
flipped bit (spec 41_frame_codec.md R128, R129). -/

namespace Sys2Proof.Machine

open Sys2Proof.Rules

/-! ## The fields of an encoded frame, whatever follows it (R70, R128) -/

theorem length_bits_bigEndian (v : U16) : (bytesToBits (bigEndian v)).length = 16 := rfl

section
variable (m : List Byte) (extra : List Bit)

/-- The length field holds the length (R70). -/
theorem frame_lengthField (h : m.length ≤ 65535) :
    numberOf ((bytesToBits (frameBytes m) ++ extra).take 16) = m.length := by
  rw [frameBytes, frameHead, List.append_assoc, bytesToBits_append, List.append_assoc,
    List.take_left' (length_bits_bigEndian _), numberOf_bigEndian, BitVec.toNat_ofNat,
    Nat.mod_eq_of_lt (by omega)]

theorem frame_lengthField_self (h : m.length ≤ 65535) :
    numberOf ((bytesToBits (frameBytes m)).take 16) = m.length := by
  simpa using frame_lengthField m [] h

/-- The CRC is computed over the length field and the payload (R70). -/
theorem frame_crc :
    crcOfBits ((bytesToBits (frameBytes m) ++ extra).take (16 + 8 * m.length)) = crc16 (frameHead m) := by
  rw [frameBytes, bytesToBits_append, List.append_assoc,
    List.take_left' (by rw [length_bytesToBits, length_frameHead]; omega), crc16_eq, bytesToBits_eq]

/-- The CRC field holds that CRC (R70). -/
theorem frame_crcField :
    numberOf (((bytesToBits (frameBytes m) ++ extra).drop (16 + 8 * m.length)).take 16) =
      (crc16 (frameHead m)).toNat := by
  rw [frameBytes, bytesToBits_append, List.append_assoc,
    List.drop_left' (by rw [length_bytesToBits, length_frameHead]; omega),
    List.take_left' (length_bits_bigEndian _), numberOf_bigEndian]

/-- Between the two fields stands the message (R70). -/
theorem frame_payload :
    ((bytesToBits (frameBytes m) ++ extra).drop 16).take (8 * m.length) = bytesToBits m := by
  rw [frameBytes, frameHead, List.append_assoc, bytesToBits_append, bytesToBits_append,
    List.append_assoc, List.drop_left' (length_bits_bigEndian _), List.append_assoc,
    List.take_left' (length_bytesToBits m)]

end

/-! ## The round trip (R128) -/

/-- A message that fits leaves its frame in `BITS` (R123). -/
theorem exists_exec_frameEncode {s : State} (h : s.msg.length ≤ 65535) :
    ∃ t, exec .frameEncode s = .next t ∧ t.ok = true ∧ t.bits = bytesToBits (frameBytes s.msg) :=
  ⟨_, exec_frameEncode_fits h, rfl, rfl⟩

section
variable {s : State} {m : List Byte} {extra : List Bit}

/-- A frame that is followed by anything is decoded to its message. -/
theorem exec_frameDecode_frame (hbits : s.bits = bytesToBits (frameBytes m) ++ extra)
    (hmin : 1 ≤ m.length) (hmax : m.length ≤ 8192) :
    ∃ u, exec .frameDecode s = .next (endsOk u) ∧ u.msg = m := by
  have hn : numberOf (s.bits.take 16) = m.length := by rw [hbits, frame_lengthField _ _ (by omega)]
  have hlen : 16 + 8 * m.length + 16 ≤ s.bits.length := by
    rw [hbits, List.length_append, length_bytesToBits, length_frameBytes]; omega
  obtain ⟨-, -, -, -, hok⟩ := Proofs.frameDecodeOutcomes s
  rw [hn] at hok
  obtain ⟨m', hm', -, hexec⟩ := hok hmin hmax hlen (by rw [hbits, frame_crc, frame_crcField])
  refine ⟨_, hexec, bytesToBits_injective ?_⟩
  rw [bytesToBits_eq, hm', hbits, frame_payload]

/-- A frame whose length the decoder rejects. -/
theorem exec_frameDecode_frame_rejected (hbits : s.bits = bytesToBits (frameBytes m))
    (hfits : m.length ≤ 65535) (hlen : m.length = 0 ∨ 8192 < m.length) :
    ∃ u, exec .frameDecode s = .next (endsIn .invalidLength u) ∧ u.msg = [] := by
  have hn : numberOf (s.bits.take 16) = m.length := by rw [hbits, frame_lengthField_self _ hfits]
  have hmin : 32 ≤ s.bits.length := by rw [hbits, length_bytesToBits, length_frameBytes]; omega
  obtain ⟨-, hinvalid, -⟩ := Proofs.frameDecodeOutcomes s
  exact ⟨_, hinvalid hmin (by rwa [hn]), rfl⟩

end

/-! ## One flipped bit (R129) -/

/-- A bit sequence with bit `p` flipped (R129). -/
def flipBit (bits : List Bit) (p : Nat) : List Bit := bits.set p (!bits.getD p false)

@[simp] theorem length_flipBit (bits : List Bit) (p : Nat) : (flipBit bits p).length = bits.length := by
  simp [flipBit]

/-- The sequence cut at the flipped bit. -/
theorem exists_flipBit_eq {bits : List Bit} {p : Nat} (h : p < bits.length) :
    ∃ front b back, front.length = p ∧ bits = front ++ b :: back ∧
      flipBit bits p = front ++ (!b) :: back := by
  refine ⟨bits.take p, bits[p], bits.drop (p + 1), List.length_take_of_le h.le, ?_, ?_⟩
  · rw [List.getElem_cons_drop, List.take_append_drop]
  · rw [flipBit, List.set_eq_take_append_cons_drop, if_pos h, List.getD_eq_getElem _ _ h]

theorem take_flipBit_of_le {bits : List Bit} {k p : Nat} (h : k ≤ p) :
    (flipBit bits p).take k = bits.take k := List.take_set_of_le h

theorem take_flipBit_of_lt {bits : List Bit} {k p : Nat} (h : p < k) :
    (flipBit bits p).take k = flipBit (bits.take k) p := by
  simp [flipBit, List.take_set, List.getElem?_take_of_lt h]

/-- A flipped bit flips its place in the number (R121). -/
theorem numberOf_not_cons (front back : List Bit) (b : Bit) :
    numberOf (front ++ (!b) :: back) = numberOf (front ++ b :: back) ^^^ 2 ^ back.length := by
  induction back using List.reverseRecOn with
  | nil =>
    have hone : 2 ^ ([] : List Bit).length = Nat.bit true 0 := rfl
    rw [numberOf_concat, numberOf_concat, hone, Nat.xor_bit, Nat.xor_zero, Bool.bne_true]
  | append_singleton back d ih =>
    have htwo : 2 ^ (back ++ [d]).length = Nat.bit false (2 ^ back.length) := by
      rw [List.length_append, List.length_singleton, Nat.bit_false, Nat.pow_succ']
    simp only [← List.cons_append, ← List.append_assoc, numberOf_concat]
    rw [ih, htwo, Nat.xor_bit, Bool.bne_false]

theorem numberOf_flipBit {bits : List Bit} {p : Nat} (h : p < bits.length) :
    numberOf (flipBit bits p) = numberOf bits ^^^ 2 ^ (bits.length - 1 - p) := by
  obtain ⟨front, b, back, hfront, hbits, hflip⟩ := exists_flipBit_eq h
  have hback : back.length = bits.length - 1 - p := by
    rw [hbits, List.length_append, List.length_cons]; omega
  rw [hflip, numberOf_not_cons, ← hbits, hback]

/-! ## The CRC of a bit sequence (R103, R107) -/

/-- Absorbing a bit is a shift of the register with that bit XORed into its top (R102, R103). -/
theorem crcBit_eq_crcShift (c : U16) (d : Bit) :
    crcBit c d = crcShift (c ^^^ if d then 0x8000#16 else 0#16) := by
  rw [crcShift_xor_eq_crcBit]
  cases d <;> simp

theorem crcShift_injective : Function.Injective crcShift := by
  intro s t h
  rw [← BitVec.xor_eq_zero_iff]
  exact crcShift_eq_zero (by rw [crcShift_xor, h, BitVec.xor_self])

theorem crcBit_left_injective {c c' : U16} {d : Bit} (h : crcBit c d = crcBit c' d) : c = c' := by
  rw [crcBit_eq_crcShift, crcBit_eq_crcShift] at h
  exact (BitVec.xor_left_inj _).mp (crcShift_injective h)

theorem crcBit_not_ne (c : U16) (d : Bit) : crcBit c (!d) ≠ crcBit c d := by
  rw [crcBit_eq_crcShift, crcBit_eq_crcShift]
  intro h
  have htop := (BitVec.xor_right_inj _).mp (crcShift_injective h)
  cases d <;> simp at htop

theorem foldl_crcBit_injective (bits : List Bit) {c c' : U16}
    (h : bits.foldl crcBit c = bits.foldl crcBit c') : c = c' := by
  induction bits generalizing c c' with
  | nil => exact h
  | cons d ds ih => exact crcBit_left_injective (ih h)

/-- A flipped bit changes the CRC (R107). -/
theorem crcOfBits_flipBit_ne {bits : List Bit} {p : Nat} (h : p < bits.length) :
    crcOfBits (flipBit bits p) ≠ crcOfBits bits := by
  obtain ⟨front, b, back, -, hbits, hflip⟩ := exists_flipBit_eq h
  rw [hflip, hbits, crcOfBits, crcOfBits, List.foldl_append, List.foldl_append]
  exact fun heq => crcBit_not_ne _ b (foldl_crcBit_injective back heq)

/-- A sequence that ends with its own CRC leaves the register at 0 (R107). -/
theorem crcOfBits_eq_zero {bits : List Bit} {k : Nat} (h : bits.length = k + 16)
    (heq : (crcOfBits (bits.take k)).toNat = numberOf ((bits.drop k).take 16)) :
    crcOfBits bits = 0#16 := by
  have hlen : (bits.drop k).length = 16 := by rw [List.length_drop]; omega
  have hfield : bits.drop k = bitsOf (twoBytes (crcOfBits (bits.take k)).toNat) := by
    rw [heq, List.take_of_length_le hlen.le, bitsOf_twoBytes_numberOf hlen]
  calc crcOfBits bits = (bits.drop k).foldl crcBit (crcOfBits (bits.take k)) := by
        rw [crcOfBits, crcOfBits, ← List.foldl_append, List.take_append_drop]
    _ = 0#16 := by rw [hfield, ← foldl_crcByte_eq, foldl_crcByte_own_bytes]

theorem crcOfBits_frame (m : List Byte) : crcOfBits (bytesToBits (frameBytes m)) = 0#16 := by
  rw [bytesToBits_eq, ← crc16_eq, frameBytes, bigEndian_eq, crc16_append, foldl_crcByte_own_bytes]

/-! ## Decoding a frame with one flipped bit (R129) -/

section
variable {s : State} {m : List Byte} {p : Nat} (hbits : s.bits = flipBit (bytesToBits (frameBytes m)) p)
include hbits

theorem length_flipped_frame : s.bits.length = 16 + 8 * m.length + 16 := by
  rw [hbits, length_flipBit, length_bytesToBits, length_frameBytes]; omega

/-- In the length field the flip changes the length (R129). -/
theorem flipped_lengthField (hfits : m.length ≤ 65535) (hp : p < 16) :
    numberOf (s.bits.take 16) = m.length ^^^ 2 ^ (15 - p) := by
  have hlen : ((bytesToBits (frameBytes m)).take 16).length = 16 := by
    rw [List.length_take, length_bytesToBits, length_frameBytes]; omega
  rw [hbits, take_flipBit_of_lt hp, numberOf_flipBit (by omega), hlen, frame_lengthField_self _ hfits]

/-- Behind the length field the flip leaves the length as it was, and the CRC finds it (R129). -/
theorem exec_frameDecode_flipped_body (hmin : 1 ≤ m.length) (hmax : m.length ≤ 8192) (hp : 16 ≤ p)
    (hin : p < 8 * (m.length + 4)) :
    ∃ u, exec .frameDecode s = .next (endsIn .crcMismatch u) ∧ u.msg = [] := by
  have hlen := length_flipped_frame hbits
  have hn : numberOf (s.bits.take 16) = m.length := by
    rw [hbits, take_flipBit_of_le hp, frame_lengthField_self _ (by omega)]
  have hne : (crcOfBits (s.bits.take (16 + 8 * m.length))).toNat ≠
      numberOf ((s.bits.drop (16 + 8 * m.length)).take 16) := fun heq =>
    crcOfBits_flipBit_ne (by rwa [length_bytesToBits, length_frameBytes])
      (by rw [← hbits, crcOfBits_eq_zero hlen heq, crcOfBits_frame])
  obtain ⟨-, -, -, hmismatch, -⟩ := Proofs.frameDecodeOutcomes s
  rw [hn] at hmismatch
  exact ⟨_, hmismatch hmin hmax hlen.ge hne, rfl⟩

end

/-- A sequence long enough for its length field fails in its CRC, if at all (R124). -/
theorem exec_frameDecode_complete {s : State} (hmin : 1 ≤ numberOf (s.bits.take 16))
    (hmax : numberOf (s.bits.take 16) ≤ 8192)
    (hfits : 16 + 8 * numberOf (s.bits.take 16) + 16 ≤ s.bits.length) :
    ∃ u, exec .frameDecode s = .next u ∧ (u.err = .none ∨ u.err = .crcMismatch ∧ u.msg = []) := by
  obtain ⟨-, -, -, hmismatch, hok⟩ := Proofs.frameDecodeOutcomes s
  by_cases heq : (crcOfBits (s.bits.take (16 + 8 * numberOf (s.bits.take 16)))).toNat =
      numberOf ((s.bits.drop (16 + 8 * numberOf (s.bits.take 16))).take 16)
  · obtain ⟨m, -, -, hdecode⟩ := hok hmin hmax hfits heq
    exact ⟨_, hdecode, .inl rfl⟩
  · exact ⟨_, hmismatch hmin hmax hfits heq, .inr ⟨rfl, rfl⟩⟩

end Sys2Proof.Machine

namespace Sys2Proof.Proofs

open Sys2Proof.Machine

/-- Settles O23: the frame's fields are what `FRAME_DECODE` tests, and the message is read off its bits. -/
theorem frameCodecRoundTrip : Obligations.FrameCodecRoundTrip := by
  refine fun s => ⟨fun hmin hmax extra => ?_, fun hlen => ?_⟩
  · obtain ⟨t, hencode, -, hbits⟩ := exists_exec_frameEncode (s := s) (by omega)
    obtain ⟨u, hdecode, hmsg⟩ := exec_frameDecode_frame (s := { t with bits := t.bits ++ extra })
      (congrArg (· ++ extra) hbits) hmin hmax
    exact ⟨t, _, hencode, hdecode, hmsg, rfl, rfl⟩
  · have hfits : s.msg.length ≤ 65535 := by omega
    obtain ⟨t, hencode, hok, hbits⟩ := exists_exec_frameEncode hfits
    obtain ⟨u, hdecode, hmsg⟩ := exec_frameDecode_frame_rejected hbits hfits (by omega)
    exact ⟨t, _, hencode, hok, hdecode, rfl, rfl, hmsg⟩

/-- Settles O24: behind the length field the flip changes the CRC alone; in it, the changed length decides
which test of `FRAME_DECODE` ends it. -/
theorem singleBitFlipOutcomes : Obligations.SingleBitFlipOutcomes := by
  intro s p hmin hmax hin n'
  obtain ⟨t, hencode, -, hbits⟩ := exists_exec_frameEncode (s := s) (by omega)
  have hflip : ({ t with bits := flipBit t.bits p } : State).bits =
      flipBit (bytesToBits (frameBytes s.msg)) p := congrArg (flipBit · p) hbits
  have hlen := length_flipped_frame hflip
  by_cases hp : 16 ≤ p
  · obtain ⟨u, hdecode, hmsg⟩ := exec_frameDecode_flipped_body hflip hmin hmax hp hin
    exact ⟨t, _, hencode, hdecode, fun _ => ⟨rfl, hmsg⟩, by omega, by omega, by omega⟩
  have hn := flipped_lengthField hflip (by omega) (by omega)
  obtain ⟨-, hinvalid, hcut, -⟩ := frameDecodeOutcomes { t with bits := flipBit t.bits p }
  rw [hn] at hinvalid hcut
  by_cases hrange : n' = 0 ∨ 8192 < n'
  · exact ⟨t, _, hencode, hinvalid (by omega) hrange, by omega, fun _ _ => ⟨rfl, rfl⟩, by omega, by omega⟩
  by_cases hlong : s.msg.length < n'
  · exact ⟨t, _, hencode, hcut (by omega) (by omega) (by omega) (by omega), by omega, by omega,
      fun _ _ _ => ⟨rfl, rfl⟩, by omega⟩
  · obtain ⟨u, hdecode, hend⟩ := exec_frameDecode_complete (s := { t with bits := flipBit t.bits p })
      (by omega) (by omega) (by omega)
    exact ⟨t, u, hencode, hdecode, by omega, by omega, by omega, fun _ _ _ => hend⟩

end Sys2Proof.Proofs
end

section
/-! PROOFS. The quantiser, the tone generator, and the modulator's operations as scripts of tones (spec
42_fsk_modulator.md R141 to R148). -/

namespace Sys2Proof.Machine

open Sys2Proof.Rules

/-! ## The quantiser (R146) -/

/-- The clamped value truncates to a bound where the clamp acted, and as it stands elsewhere. -/
theorem trunc_clampPcm (K : NumOps) (y : NumVal) : (clampPcm K y).trunc =
    if y.gt (K.num 32767) then 32767 else if (K.num (-32767)).gt y then -32767 else y.trunc := by
  have htop : (K.num 32767).trunc = 32767 := by rw [K.num_small (by decide), NumVal.trunc_int]
  have hbottom : (K.num (-32767)).trunc = -32767 := by rw [K.num_small (by decide), NumVal.trunc_int]
  rw [clampPcm_eq, apply_ite NumVal.trunc, apply_ite NumVal.trunc, htop, hbottom]

/-! ## `TONE` (R141, R143) -/

/-- Operands in range: the tone is played. -/
theorem exec_tone_fits {s : State} (hf : s.opa.toNat < 2 ^ 31) (hms : s.opb.toNat ≤ 3600000) :
    exec .tone s = .next (endsOk (playTone Config.params.num s.opa.toNat s.opb.toNat s)) := by
  have hok : toneOperandsOk (opA s) (opB s) = true := (toneOperandsOk_iff ..).mpr ⟨hf, hms⟩
  rw [exec, execTone, toneBody, if_pos hok]
  rfl

/-- Otherwise it is refused, with nothing changed (R268). -/
theorem exec_tone_refused {s : State} (h : 2 ^ 31 ≤ s.opa.toNat ∨ 3600000 < s.opb.toNat) :
    exec .tone s = .next (endsIn .operandRange s) := by
  have hbad : ¬ toneOperandsOk (opA s) (opB s) = true :=
    mt (toneOperandsOk_iff s.opa.toNat s.opb.toNat).mp (by omega)
  rw [exec, execTone, toneBody, if_neg hbad]
  rfl

theorem getElem?_toneValues (K : NumOps) (p : NumVal) (f : Nat) {n i : Nat} (hi : i < n) :
    (toneValues K p f n)[i]? = some (if f = 0 then .zero else toneValue K p f i) := by
  unfold toneValues
  split <;> simp [hi]

/-! ## Scripts of modulator commands (R145, R148)

A command of a script also writes the operand registers and `STATUS`; what the modulator computes does not
depend on these. -/

/-- What the modulator reads and writes is the same in both states: `BITS`, `phase` and `FBUF`. -/
structure SameModulator (s t : State) : Prop where
  bits_eq : s.bits = t.bits
  phase_eq : s.phase = t.phase
  fbuf_eq : s.fbuf = t.fbuf

namespace SameModulator

variable {s t : State} (h : SameModulator s t)
include h

theorem playTone (K : NumOps) (f ms : Nat) : SameModulator (playTone K f ms s) (playTone K f ms t) where
  bits_eq := h.bits_eq
  phase_eq := by rw [playTone_phase, playTone_phase, h.phase_eq]
  fbuf_eq := by rw [playTone_fbuf, playTone_fbuf, h.phase_eq, h.fbuf_eq]

theorem playBits (K : NumOps) : SameModulator (playBits K s) (playBits K t) := by
  obtain ⟨p, f, hs⟩ := playBits_keeps K s
  obtain ⟨q, g, ht⟩ := playBits_keeps K t
  obtain ⟨hfbuf, hphase⟩ := foldl_playBit_congr K t.bits h.fbuf_eq h.phase_eq
  refine ⟨by rw [hs, ht]; exact h.bits_eq, ?_, ?_⟩ <;> rw [Machine.playBits, h.bits_eq]
  · exact hphase
  · exact hfbuf

theorem command_tone (f ms : U32) (hf : f.toNat < 2 ^ 31) (hms : ms.toNat ≤ 3600000) :
    ∃ u, command (.tone, f, ms) s = some u ∧
      SameModulator u (Machine.playTone Config.params.num f.toNat ms.toNat t) := by
  refine ⟨_, by rw [command, exec_tone_fits hf hms], ?_⟩
  obtain ⟨hbits, hphase, hfbuf⟩ := h.playTone Config.params.num f.toNat ms.toNat
  exact ⟨hbits, hphase, hfbuf⟩

theorem command_modBits (a b : U32) : ∃ u, command (.modBits, a, b) s = some u ∧
    SameModulator u (Machine.playBits Config.params.num t) := by
  have hoperands : SameModulator { s with opa := a, opb := b } t := ⟨h.bits_eq, h.phase_eq, h.fbuf_eq⟩
  obtain ⟨hbits, hphase, hfbuf⟩ := hoperands.playBits Config.params.num
  exact ⟨_, rfl, hbits, hphase, hfbuf⟩

theorem command_modReset (a b : U32) :
    ∃ u, command (.modReset, a, b) s = some u ∧ SameModulator u (clearModulator t) :=
  ⟨_, rfl, h.bits_eq, rfl, rfl⟩

end SameModulator

/-- The command that plays one bit as a symbol of 40 ms (R145). -/
def bitCommand (b : Bit) : Instr × U32 × U32 := (.tone, if b then 3000#32 else 2000#32, 40#32)

theorem command_bitCommand (b : Bit) {s t : State} (h : SameModulator s t) :
    ∃ u, command (bitCommand b) s = some u ∧ SameModulator u (playBit Config.params.num t b) := by
  cases b
  · exact h.command_tone 2000#32 40#32 (by decide) (by decide)
  · exact h.command_tone 3000#32 40#32 (by decide) (by decide)

/-- A tone per bit does to the modulator what the bits do (R145). -/
theorem script_bitCommands (bs : List Bit) {s t : State} (h : SameModulator s t) :
    ∃ u, script (bs.map bitCommand) s = some u ∧
      SameModulator u (bs.foldl (playBit Config.params.num) t) := by
  induction bs generalizing s t with
  | nil => exact ⟨s, rfl, h⟩
  | cons b bs ih =>
    obtain ⟨v, hv, hsame⟩ := command_bitCommand b h
    obtain ⟨u, hu, hsame⟩ := ih hsame
    exact ⟨u, by rw [List.map_cons, script, hv, Option.bind_some, hu], hsame⟩

/-- The expansion of `BUILD_FRAME` leaves the working signal of a burst (R76, R148). -/
theorem script_burst (s : State) :
    ∃ u, script [(.modReset, 0#32, 0#32), (.tone, 4000#32, 250#32), (.tone, 0#32, 50#32),
      (.modBits, 0#32, 0#32), (.tone, 5000#32, 100#32)] s = some u ∧
      SameModulator u (playBurst Config.params.num s) := by
  have hs : SameModulator s s := ⟨rfl, rfl, rfl⟩
  obtain ⟨cleared, hcleared, hsame⟩ := hs.command_modReset 0#32 0#32
  obtain ⟨started, hstarted, hsame⟩ := hsame.command_tone 4000#32 250#32 (by decide) (by decide)
  obtain ⟨silent, hsilent, hsame⟩ := hsame.command_tone 0#32 50#32 (by decide) (by decide)
  obtain ⟨sent, hsent, hsame⟩ := hsame.command_modBits 0#32 0#32
  obtain ⟨ended, hended, hsame⟩ := hsame.command_tone 5000#32 100#32 (by decide) (by decide)
  refine ⟨ended, ?_, hsame⟩
  simp only [script, hcleared, hstarted, hsilent, hsent, hended, Option.bind_some]

end Sys2Proof.Machine

namespace Sys2Proof.Proofs

open Sys2Proof.Machine

/-- Settles O26: no sample wraps, and the clamp's three cases truncate as stated. -/
theorem quantiserClampsThenTruncates : Obligations.QuantiserClampsThenTruncates := fun K v =>
  (quantise_toInt K v).trans (trunc_clampPcm K _)

/-- Settles O27: the cleared phase is `num(0)`. -/
theorem modResetClearsPhaseAndBuffer : Obligations.ModResetClearsPhaseAndBuffer := by
  intro s
  rw [NumOps.num_zero]
  rfl

/-- Settles O28: `playTone` appends `toneValues`, whose length and elements are those of the rule. -/
theorem toneAppendsItsSamples : Obligations.ToneAppendsItsSamples := by
  refine fun s => ⟨exec_tone_refused, fun hf hms => ⟨_, exec_tone_fits hf hms, rfl, ?_, ?_, ?_⟩⟩
  · exact List.length_append.trans (congrArg _ (length_toneValues ..))
  · exact List.prefix_append ..
  · intro i hi
    rw [NumOps.num_zero]
    refine (List.getElem?_append_right (Nat.le_add_right ..)).trans ?_
    rw [Nat.add_sub_cancel_left]
    exact getElem?_toneValues _ _ _ hi

/-- Settles O29: `playTone` with no duration, and with the silent values. -/
theorem silenceAndZeroDurationKeepPhase : Obligations.SilenceAndZeroDurationKeepPhase := by
  refine fun s => ⟨fun hf hms => ?_, fun hf hms => ?_⟩
  · rw [exec_tone_fits hf (by omega), hms, playTone_no_duration]
  · rw [exec_tone_fits (by omega) hms, hf, NumOps.num_zero, playTone, NumOps.angle_freq_zero,
      NumOps.plus_zero, toneValues_silent]
    rfl

/-- Settles O30, by induction on the bits. -/
theorem modBitsIsATonePerBit : Obligations.ModBitsIsATonePerBit := by
  intro s
  obtain ⟨u, hscript, hsame⟩ := script_bitCommands s.bits (s := s) (t := s) ⟨rfl, rfl, rfl⟩
  obtain ⟨p, f, hplayed⟩ := foldl_playBit_keeps Config.params.num s.bits s
  obtain ⟨l, hfbuf, hlength⟩ := foldl_playBit_fbuf Config.params.num s.bits s
  refine ⟨_, u, rfl, hscript, ?_, ?_⟩
  · rw [hsame.phase_eq, hsame.fbuf_eq, playBits, hplayed]
    rfl
  · rw [conclude_eq, endOp_fbuf, playBits, hfbuf, List.length_append, hlength]

/-- Settles O31: the five commands leave the working signal of a burst, which `BUILD_FRAME` quantises. -/
theorem buildFrameIsItsExpansion : Obligations.BuildFrameIsItsExpansion := by
  intro s
  obtain ⟨u, hscript, hsame⟩ := script_burst s
  refine ⟨_, u, rfl, hscript, ?_, length_buildBurst_pcm _ s⟩
  rw [hsame.phase_eq, hsame.fbuf_eq, buildBurst_eq]
  rfl

end Sys2Proof.Proofs
end

section
/-! PROOFS. What a burst is a function of, and `ENCODE_MESSAGE` as `FRAME_ENCODE` and then `BUILD_FRAME` (spec
42_fsk_modulator.md R149, R152). -/

namespace Sys2Proof.Machine

open Sys2Proof.Rules

/-- `s` with the burst of `t` in the modulator and in `PCM` (R148). -/
def withBurst (t s : State) : State :=
  { s with
    phase := (playBurst Config.params.num t).phase, fbuf := (playBurst Config.params.num t).fbuf
    pcm := (playBurst Config.params.num t).fbuf.map (quantise Config.params.num) }

/-- `BUILD_FRAME` leaves the burst of any state with the same bits (R152). -/
theorem buildBurst_of_bits {s t : State} (h : s.bits = t.bits) :
    buildBurst Config.params.num s = withBurst t s := by
  obtain ⟨hfbuf, hphase⟩ := playBurst_congr Config.params.num h
  rw [buildBurst_eq, hfbuf, hphase]
  rfl

theorem exec_buildFrame {s t : State} (h : s.bits = t.bits) :
    exec .buildFrame s = .next (endsOk (withBurst t s)) := by
  rw [← buildBurst_of_bits h]
  rfl

/-- A message that fits is encoded, and the burst of its frame built, that of any state `t` whose `BITS` hold
the frame (R149, R152). -/
theorem exec_encodeMessage_fits {s t : State} (hfits : s.msg.length ≤ 65535)
    (h : bytesToBits (frameBytes s.msg) = t.bits) : exec .encodeMessage s =
      .next (endsOk (withBurst t { s with crc := crc16 (frameHead s.msg), bits := t.bits })) := by
  have hburst := buildBurst_of_bits (s := { s with crc := crc16 (frameHead s.msg), bits := t.bits })
    (t := t) rfl
  rw [exec, execEncodeMessage, encodeBurst, frameEncode, if_pos ((messageLengthOk_iff _).mpr hfits), h,
    ← hburst]
  rfl

/-- A longer one is refused, with nothing changed (R149, R268). -/
theorem exec_encodeMessage_refused {s : State} (h : 65535 < s.msg.length) :
    exec .encodeMessage s = .next (endsIn .operandRange s) := by
  rw [exec, execEncodeMessage, encodeBurst, frameEncode, if_neg (mt (messageLengthOk_iff _).mp (by omega))]
  rfl

end Sys2Proof.Machine

namespace Sys2Proof.Proofs

open Sys2Proof.Machine

/-- Settles O33: the second run leaves the burst of the first, and the same frame. -/
theorem burstDependsOnInputAlone : Obligations.BurstDependsOnInputAlone := by
  refine fun s s' => ⟨fun hbits => ?_, fun hmsg hfits => ?_⟩
  · exact ⟨_, _, exec_buildFrame (t := s) rfl, exec_buildFrame hbits.symm, rfl, rfl, rfl⟩
  · obtain ⟨t, hframe⟩ : ∃ t : State, bytesToBits (frameBytes s.msg) = t.bits :=
      ⟨{ s with bits := _ }, rfl⟩
    have hcrc : crc16 (frameHead s.msg) = crc16 (frameHead s'.msg) := by rw [hmsg]
    exact ⟨_, _, exec_encodeMessage_fits hfits hframe,
      exec_encodeMessage_fits (hmsg ▸ hfits) (hmsg ▸ hframe), rfl, rfl, hcrc, rfl, rfl⟩

/-- Settles O34: a second `ENCODE_MESSAGE` finds the same message, so it leaves the same frame and burst. -/
theorem encodeMessageIsEncodeThenBuild : Obligations.EncodeMessageIsEncodeThenBuild := by
  refine fun s => ⟨exec_encodeMessage_refused, fun hfits => ?_⟩
  exact ⟨_, _, exec_frameEncode_fits hfits, exec_buildFrame rfl,
    exec_encodeMessage_fits hfits rfl, exec_encodeMessage_fits hfits rfl⟩

end Sys2Proof.Proofs
end

section
/-! PROOFS. `TRANSMIT`: playing the burst, and the sleep (spec 42_fsk_modulator.md R150, 70_reset_and_hazards.md
R294). -/

namespace Sys2Proof.Machine

open Sys2Proof.Rules

theorem readClock_sameCapture (s : State) : sameCapture s.env (readClock s).2.env :=
  ⟨rfl, rfl, rfl, rfl, rfl, rfl⟩

theorem playWrite_sameCapture (p : List Sample) (s : State) : sameCapture s.env (playWrite p s).2.env :=
  ⟨rfl, rfl, rfl, rfl, rfl, rfl⟩

section
variable {s : State} {answer : Bool} (h : s.env.plays.headD (Config.freePlay s.env.draws) = answer)
include h

theorem playWrite_answer (p : List Sample) : playWrite p s = (answer, (playWrite p s).2) :=
  Prod.ext h rfl

/-- An accepted burst is recorded, a refused one is not (R13, log 21). -/
theorem playWrite_played (p : List Sample) :
    (playWrite p s).2.env.played = if answer then s.env.played ++ [p] else s.env.played := by
  rw [← h]; rfl

end

/-- The device accepts: the sleep is counted from the clock read next (R150, log 10). -/
theorem startTransmit_accepted (P : Params) {s : State}
    (h : s.env.plays.headD (Config.freePlay s.env.draws) = true) :
    startTransmit P s =
      let clock := readClock (playWrite s.pcm s).2
      startOp (.transmit (clock.1 + sleepSeconds P s.pcm.length)) clock.2 := by
  rw [startTransmit, playWrite_answer h]

/-- The device refuses: no sleep (R150, R268). -/
theorem startTransmit_refused (P : Params) {s : State}
    (h : s.env.plays.headD (Config.freePlay s.env.draws) = false) :
    startTransmit P s = endOp .deviceError (playWrite s.pcm s).2 := by
  rw [startTransmit, playWrite_answer h]

end Sys2Proof.Machine

namespace Sys2Proof.Proofs

open Sys2Proof.Machine

/-- Settles O35, by the answer of the playback device. -/
theorem transmitPlaysThenSleeps : Obligations.TransmitPlaysThenSleeps := by
  intro s accepted
  cases haccepted : accepted with
  | true =>
    refine ⟨_, congrArg Host.Outcome.next (startTransmit_accepted Config.params haccepted), ?_⟩
    exact ⟨playWrite_sameCapture s.pcm s, readClock_now_le (playWrite s.pcm s).2,
      fun _ => ⟨playWrite_played haccepted s.pcm, rfl⟩, fun hno => Bool.noConfusion hno⟩
  | false =>
    refine ⟨_, congrArg Host.Outcome.next (startTransmit_refused Config.params haccepted), ?_⟩
    exact ⟨playWrite_sameCapture s.pcm s, le_rfl, fun hno => Bool.noConfusion hno,
      fun _ => ⟨playWrite_played haccepted s.pcm, rfl, rfl⟩⟩

/-- Settles O36: the step reads the clock, and ends the operation if that shows the end of the sleep. -/
theorem transmitHoldsUntilTheSleepEnds : Obligations.TransmitHoldsUntilTheSleepEnds := by
  intro s wake hrunning hwaits
  have hstep : step s = .next (transmitStep wake s) := step_running hrunning hwaits
  have hnow := readClock_now_le s
  have hsame := readClock_sameCapture s
  by_cases hwake : wake ≤ (readClock s).1
  · rw [transmitStep, if_pos hwake] at hstep
    exact ⟨_, hstep, hnow, hsame, rfl, rfl, rfl, fun hearly => absurd hwake hearly.not_ge, fun _ => rfl⟩
  · rw [transmitStep, if_neg hwake] at hstep
    exact ⟨_, hstep, hnow, hsame, rfl, rfl, rfl, fun _ => rfl, fun hlate => absurd hlate hwake⟩

end Sys2Proof.Proofs
end

section
/-! PROOFS. The Goertzel detector: its recurrence sample by sample, its two operations on a window that fits and
on one that is refused, and silence (spec 43_goertzel.md R171 to R175, 44_demodulator.md R191 to R195). -/

namespace Sys2Proof.Machine

open Sys2Proof.Rules

/-! ## A window of the recording (R174, R192) -/

section
variable {r : List Sample} {d n : Nat} (h : d + n ≤ r.length)
include h

theorem length_window : ((r.drop d).take n).length = n := by
  rw [List.length_take, List.length_drop]; omega

theorem getElem_window {i : Nat} (hi : i < ((r.drop d).take n).length) :
    ((r.drop d).take n)[i] = sampleAt r (d + i) := by
  have hin : d + i < r.length := by rw [length_window h] at hi; omega
  rw [List.getElem_take, List.getElem_drop, sampleAt, List.getD_eq_getElem _ _ hin]

theorem window_of_silence (hsilent : ∀ i, i < n → sampleAt r (d + i) = 0#16) :
    (r.drop d).take n = List.replicate n 0#16 := by
  refine List.ext_getElem (by rw [length_window h, List.length_replicate]) fun i hi _ => ?_
  rw [getElem_window h, List.getElem_replicate, hsilent i (by rwa [length_window h] at hi)]

end

/-! ## The recurrence (R171) -/

/-- The pair `(s1, s2)` after the first `i` samples (R171). -/
def goertzelState (K : NumOps) (c : NumVal) (x : List Sample) (i : Nat) : NumVal × NumVal :=
  (x.take i).foldl (goertzelStep K c) (.zero, .zero)

theorem goertzelState_succ (K : NumOps) (c : NumVal) {x : List Sample} {i : Nat} (h : i < x.length) :
    goertzelState K c x (i + 1) = goertzelStep K c (goertzelState K c x i) x[i] := by
  rw [goertzelState, List.take_succ_eq_append_getElem h, List.foldl_append]
  rfl

/-- The power is the closing formula on the pair after the last sample. -/
theorem goertzelPower_eq (K : NumOps) (x : List Sample) (f : Nat) : goertzelPower K x f =
    goertzelResult K (goertzelCoeff K x.length f)
      (goertzelState K (goertzelCoeff K x.length f) x x.length) := by
  rw [goertzelState, List.take_length, goertzelPower]

/-! ## The two operations (R174, R175) -/

/-- The operands that are refused (R266). -/
theorem not_goertzelOperandsOk_iff (s : State) : ¬ goertzelOperandsOk s = true ↔
    s.opb.toNat = 0 ∨ s.recBuf.length < s.opa.toNat + s.opb.toNat ∨ 2 ^ 31 ≤ s.opc.toNat := by
  rw [goertzelOperandsOk_iff]
  omega

section
variable {s : State}

theorem exec_goertzelPower_refused (h : ¬ goertzelOperandsOk s = true) :
    exec .goertzelPower s = .next (endsIn .operandRange s) := by
  rw [exec, execGoertzelPower, powerBody, if_neg h]
  rfl

theorem exec_toneDetect_refused (h : ¬ goertzelOperandsOk s = true) :
    exec .toneDetect s = .next (endsIn .operandRange s) := by
  rw [exec, execToneDetect, detectBody, if_neg h]
  rfl

section
variable {power : NumVal} (h : goertzelOperandsOk s = true)
  (hpower : goertzelPower Config.params.num (operandWindow s) (opC s) = power)
include h hpower

theorem exec_goertzelPower_fits :
    exec .goertzelPower s = .next (endsOk { s with resN0 := power }) := by
  rw [exec, execGoertzelPower, powerBody, if_pos h, hpower]
  rfl

theorem exec_toneDetect_fits : exec .toneDetect s = .next (endsOk { s with
    resN0 := power, resI := if aboveThreshold Config.params power then 1#32 else 0#32 }) := by
  rw [exec, execToneDetect, detectBody, if_pos h, hpower]
  rfl

end

/-- `SYM_ENERGY` on a window that fits (R195). -/
theorem exec_symEnergy_fits {e : NumVal × NumVal} (h : s.opa.toNat + 1764 ≤ s.recBuf.length)
    (henergies : symEnergy Config.params.num s.rom s.recBuf (opA s) = e) :
    exec .symEnergy s = .next (endsOk { s with
      resN0 := e.1, resN1 := e.2, resI := if energyBit e then 1#32 else 0#32 }) := by
  have hok : symbolOperandOk (opA s) s.recBuf.length = true := (symbolOperandOk_iff ..).mpr h
  rw [exec, execSymEnergy, energyBody, if_pos hok, henergies]
  rfl

end

/-! ## Silence (R174, R195, log 2) -/

section
variable (K : NumOps)

/-- A zero sample leaves the pair at zero, whatever the coefficient. -/
theorem goertzelStep_silence (c : NumVal) : goertzelStep K c (.zero, .zero) 0#16 = (.zero, .zero) := by
  simp [goertzelStep]

theorem goertzelPower_silence (n f : Nat) : goertzelPower K (List.replicate n 0#16) f = .zero := by
  have hfixed (c : NumVal) :
      (List.replicate n 0#16).foldl (goertzelStep K c) (.zero, .zero) = (.zero, .zero) := by
    induction n with
    | zero => rfl
    | succ n ih => rw [List.replicate_succ, List.foldl_cons, goertzelStep_silence, ih]
  simp [goertzelPower, goertzelResult, hfixed]

theorem normalise_silence : normalise K 0#16 = .zero := by
  rw [normalise, sampleNum_zero]
  exact K.zero_quot (K.num_ne_zero (by decide) (by decide))

/-- Every product of the correlation is zero, so the sum stays at its start. -/
theorem correlate_silence (n : Nat) (ref : List NumVal) :
    correlate K (List.replicate n .zero) ref = .zero := by
  rw [correlate, correlate_eq_sum]
  refine List.foldl_fixed' (fun i => ?_) _
  rw [List.getD_eq_getElem?_getD, List.getElem?_getD_replicate_default_eq, NumOps.zero_times,
    NumOps.plus_zero]

theorem quadEnergy_silence : quadEnergy K .zero .zero = .zero := by simp [quadEnergy]

theorem energyBit_silence : energyBit (.zero, .zero) = false := NumVal.gt_self _

theorem symEnergy_silence (rom : RefTables) {r : List Sample} {d : Nat} (h : d + 1764 ≤ r.length)
    (hsilent : ∀ i, i < 1764 → sampleAt r (d + i) = 0#16) :
    symEnergy K rom r d = (.zero, .zero) := by
  have hwindow : symbolWindow K r d = List.replicate 1764 .zero := by
    rw [symbolWindow, window_of_silence h hsilent, List.map_replicate, normalise_silence]
  simp only [symEnergy, hwindow, correlate_silence, quadEnergy_silence]

end

end Sys2Proof.Machine

namespace Sys2Proof.Proofs

open Sys2Proof.Machine

/-- Settles O37: the pair after `i` samples of the window satisfies the recurrence, and after the last one
gives the power. -/
theorem goertzelPowerRecurrence : Obligations.GoertzelPowerRecurrence := by
  intro s K n f k c
  refine ⟨fun hbad => exec_goertzelPower_refused ((not_goertzelOperandsOk_iff s).mpr hbad),
    fun hn hfit hf => ?_⟩
  have hlen : (operandWindow s).length = n := length_window hfit
  refine ⟨fun i => (goertzelState K c (operandWindow s) i).1,
    fun i => (goertzelState K c (operandWindow s) i).2, K.num_zero.symm, K.num_zero.symm,
    fun i hi => ?_, ?_⟩
  · have hin : i < (operandWindow s).length := hlen ▸ hi
    have hsample : (operandWindow s)[i] = Rules.sampleAt s.recBuf (s.opa.toNat + i) :=
      getElem_window hfit hin
    simp only [goertzelState_succ K c hin, hsample]
    exact ⟨rfl, rfl⟩
  · refine exec_goertzelPower_fits ((goertzelOperandsOk_iff s).mpr ⟨hn, hfit, hf⟩) ?_
    rw [goertzelPower_eq, hlen]
    rfl

/-- Settles O38: both operations compute the same power under the same operand check. -/
theorem toneDetectComparesThePower : Obligations.ToneDetectComparesThePower := by
  refine ⟨powerThreshold_pos _, fun s => ⟨fun hbad => ?_, fun hn hfit hf => ?_⟩⟩
  · exact exec_toneDetect_refused ((not_goertzelOperandsOk_iff s).mpr hbad)
  · have hok := (goertzelOperandsOk_iff s).mpr ⟨hn, hfit, hf⟩
    exact ⟨_, exec_goertzelPower_fits hok rfl, rfl, exec_toneDetect_fits hok rfl⟩

/-- Settles O41: a silent window is a list of zero samples, whose power and energies are `num(0)`. -/
theorem silenceHasNoPowerAndNoEnergy : Obligations.SilenceHasNoPowerAndNoEnergy := by
  refine fun s => ⟨fun hn hfit hf hsilent => ?_, fun hfit hsilent => ?_⟩
  · have hok := (goertzelOperandsOk_iff s).mpr ⟨hn, hfit, hf⟩
    have hpower : goertzelPower Config.params.num (operandWindow s) (opC s) = .zero := by
      rw [operandWindow, opA, opB, window_of_silence hfit hsilent, goertzelPower_silence]
    have hdetect := exec_toneDetect_fits hok hpower
    rw [aboveThreshold_zero] at hdetect
    rw [NumOps.num_zero]
    exact ⟨exec_goertzelPower_fits hok hpower, hdetect⟩
  · have henergies := exec_symEnergy_fits hfit (symEnergy_silence _ s.rom hfit hsilent)
    rw [energyBit_silence] at henergies
    rw [NumOps.num_zero]
    exact henergies

end Sys2Proof.Proofs
end

section
/-! PROOFS. The demodulator: the energies of a window, the offset search over its candidates, and the bits of the
whole windows (spec 44_demodulator.md R191 to R198). -/

namespace Sys2Proof.Machine

open Sys2Proof.Rules

/-! ## The energies of a window that fits (R191, R192) -/

/-- The correlation of the model's window, index by index. -/
theorem correlate_symbolWindow (K : NumOps) {r : List Sample} {d : Nat} (h : d + 1764 ≤ r.length)
    (ref : List NumVal) : correlate K (symbolWindow K r d) ref = correlation K r d ref := by
  rw [correlate, correlate_eq_sum, length_symbolWindow K h]
  refine List.foldl_ext _ _ _ fun acc i hi => ?_
  rw [List.getD_eq_getElem?_getD (l := symbolWindow K r d),
    getElem?_symbolWindow K h (List.mem_range.mp hi)]
  rfl

section
variable {s : State} {d : Nat} (h : d + 1764 ≤ s.recBuf.length)
include h

theorem symEnergy_eq_energies :
    symEnergy Config.params.num s.rom s.recBuf d = (energy0 s d, energy1 s d) := by
  simp only [symEnergy, correlate_symbolWindow _ h, quadEnergy, energy0, energy1]

theorem energyMax_eq_peak : energyMax (symEnergy Config.params.num s.rom s.recBuf d) = peak s d := by
  rw [symEnergy_eq_energies h, energyMax, peak]

theorem energyBit_eq_gt : energyBit (symEnergy Config.params.num s.rom s.recBuf d) =
    (energy1 s d).gt (energy0 s d) := by
  rw [symEnergy_eq_energies h, energyBit]

end

/-- The bit of window `j` of the extraction, whose samples are all in the recording (R197). -/
theorem getElem?_extractBits {s : State} {p j : Nat} (h : j < (s.recBuf.length - p) / 1764) :
    (extractBits Config.params.num s.rom s.recBuf p)[j]? =
      some ((energy1 s (p + 1764 * j)).gt (energy0 s (p + 1764 * j))) := by
  have hfit : p + 1764 * j + 1764 ≤ s.recBuf.length := by omega
  rw [extractBits, List.getElem?_map, List.getElem?_range h, ← energyBit_eq_gt hfit]
  rfl

/-! ## The operations (R195 to R198) -/

theorem exec_symEnergy_refused {s : State} (h : s.recBuf.length < s.opa.toNat + 1764) :
    exec .symEnergy s = .next (endsIn .operandRange s) := by
  have hbad : ¬ symbolOperandOk (opA s) s.recBuf.length = true := by
    rw [symbolOperandOk_iff]
    exact h.not_ge
  rw [exec, execSymEnergy, energyBody, if_neg hbad]
  rfl

theorem exec_bitExtract_refused {s : State} (h : s.recBuf.length < s.opa.toNat) :
    exec .bitExtract s = .next (endsIn .operandRange s) := by
  have hbad : ¬ startOperandOk (opA s) s.recBuf.length = true := by
    rw [startOperandOk_iff]
    exact h.not_ge
  rw [exec, execBitExtract, extractBody, if_neg hbad]
  rfl

theorem exec_bitExtract_inside {s : State} (h : s.opa.toNat ≤ s.recBuf.length) :
    exec .bitExtract s = .next (endsOk { s with
      bits := extractBits Config.params.num s.rom s.recBuf s.opa.toNat }) := by
  have hok : startOperandOk (opA s) s.recBuf.length = true := (startOperandOk_iff ..).mpr h
  rw [exec, execBitExtract, extractBody, if_pos hok]
  rfl

theorem exec_offsetSearch (s : State) :
    exec .offsetSearch s = .next (endsOk (searchBody Config.params.num s)) := rfl

theorem exec_demodulate (s : State) : exec .demodulate s =
    .next (endsOk { searchBody Config.params.num s with
      bits := extractBits Config.params.num s.rom s.recBuf
        (searchOffset Config.params.num s.rom s.recBuf).1 }) := by
  rw [exec, execDemodulate, demodulateBody_eq]
  rfl

/-- The offset the search leaves in `RES_I` reads back as itself (R196). -/
theorem toNat_searchBody_resI (K : NumOps) (s : State) :
    (searchBody K s).resI.toNat = (searchOffset K s.rom s.recBuf).1 :=
  toNat_searchOffset K s.rom s.recBuf

end Sys2Proof.Machine

namespace Sys2Proof.Proofs

open Sys2Proof.Machine Sys2Proof.Rules

/-- Settles O39: on a window that fits, the model's correlations are those of the rule. -/
theorem symEnergyOfTheWindow : Obligations.SymEnergyOfTheWindow := by
  refine fun s => ⟨exec_symEnergy_refused, fun hfit => ?_⟩
  rw [exec_symEnergy_fits hfit (symEnergy_eq_energies hfit), energyBit, opA]

/-- Settles O40: the fold over the ascending candidates ends at its start or at a candidate above it. -/
theorem offsetSearchFindsEarliestPeak : Obligations.OffsetSearchFindsEarliestPeak := by
  intro s
  have hpeak {d : Nat} (hd : candidate s d) := energyMax_eq_peak hd.2.1
  have ⟨hfound, hlargest⟩ := searchOffset_spec Config.params.num s.rom s.recBuf
  refine ⟨_, _, exec_offsetSearch s, ?_, fun d hd => ?_⟩
  · rw [NumOps.num_zero]
    refine hfound.imp Prod.ext_iff.mp fun ⟨hmem, henergy, hpos⟩ => ?_
    have hcandidate : candidate s _ := mem_candidates.mp hmem
    exact ⟨hcandidate, henergy.trans (hpeak hcandidate), hpos⟩
  · have ⟨hnone, hearlier⟩ := hlargest d (mem_candidates.mpr hd)
    simp only [hpeak hd] at hnone hearlier
    refine ⟨hnone, fun hlt => hearlier (fun hstart => ?_) hlt⟩
    rw [hstart] at hlt
    exact absurd hlt d.not_lt_zero

/-- Settles O42: every window the extraction counts is whole, and gives the bit of its energies. -/
theorem bitExtractDecodesEachWindow : Obligations.BitExtractDecodesEachWindow := by
  refine fun s => ⟨exec_bitExtract_refused, fun hinside => ?_⟩
  have hlength := length_extractBits Config.params.num s.rom s.recBuf s.opa.toNat
  exact ⟨_, exec_bitExtract_inside hinside, rfl, hlength,
    fun j hj => getElem?_extractBits (hj.trans_eq hlength)⟩

/-- Settles O43: the offset found is inside the recording, so the extraction from `RES_I` is not refused. -/
theorem demodulateIsSearchThenExtract : Obligations.DemodulateIsSearchThenExtract := by
  intro s
  have hresI := toNat_searchBody_resI Config.params.num s
  have hinside := (searchOffset_le Config.params.num s.rom s.recBuf).1
  refine ⟨_, _, exec_offsetSearch s, exec_bitExtract_inside (hresI.trans_le hinside), rfl, ?_⟩
  rw [exec_demodulate, ← hresI]
  rfl

end Sys2Proof.Proofs
end

section
/-! PROOFS. The receive machine: the entry of `RECEIVE`, and its steps state by state (spec 45_receiver_fsm.md
R220 to R229). -/

namespace Sys2Proof.Machine

open Sys2Proof.Rules

/-! ## The entry (R221) -/

section Entry

variable {s : State}

theorem exec_receive_acquired (h : (openCapture (readClock s).2).1 = true) : exec .receive s =
    .next (startOp .receive { rxEntered (openCapture (readClock s).2).2.env s with
      capOpen := true, rxState := .awaitStart }) := by
  have hopen : openCapture (rxClear s) = (true, rxEntered (openCapture (readClock s).2).2.env s) :=
    Prod.ext h rfl
  rw [exec, execReceive, rxEnter, hopen, goOn_eq]

theorem exec_receive_no_device (h : (openCapture (readClock s).2).1 = false) : exec .receive s =
    .next (endOp .deviceError { rxEntered (openCapture (readClock s).2).2.env s with
      diagState := .idle, rxState := .failed }) := by
  have hopen : openCapture (rxClear s) = (false, rxEntered (openCapture (readClock s).2).2.env s) :=
    Prod.ext h rfl
  rw [exec, execReceive, rxEnter, hopen, goOn_eq]

end Entry

/-! ## The exits (R228, R229) -/

/-- `Fail(e)` while the device is held (R229). -/
theorem rxFail_eq_failed {s : State} {e : ErrCode} (he : e ≠ .none) (hheld : s.capOpen = true) :
    rxFail e s = failed e s.env s := by
  rw [rxFail_held e hheld, decide_eq_false he]
  rfl

theorem rxValidate_succeeds {s t : State} (h : frameDecode s = (t, .none)) :
    rxValidate s = rxSucceed t := by
  rw [rxValidate, h]
  rfl

theorem rxValidate_fails {s t : State} {e : ErrCode} (h : frameDecode s = (t, e)) (he : e ≠ .none) :
    rxValidate s = rxFail e t := by
  rw [rxValidate, h]
  exact if_neg he

/-- What the decoder writes, with its outcome (R124, R127). -/
theorem frameDecode_writes (s : State) : ∃ c m k r e, frameDecode s = ({ s with
    crc := c, msg := m, diagNBits := s.bits.length, diagCrcCalc := k, diagCrcRx := r }, e) :=
  ⟨_, _, _, _, _, Prod.ext (frameDecode_keeps s) rfl⟩

/-! ## The deadline test and the read (R222, R224, R225) -/

section TimedRead

variable {s : State} {late early : State → State} {n : Nat} {use : List Sample → State → State}

theorem beforeDeadline_late (h : s.deadline ≤ (readClock s).1) :
    beforeDeadline late early s = late { s with env := (readClock s).2.env } := if_pos h

theorem beforeDeadline_timeout (hheld : s.capOpen = true) (h : s.deadline ≤ (readClock s).1) :
    beforeDeadline (rxFail .timeout) early s = failed .timeout (readClock s).2.env s :=
  (beforeDeadline_late h).trans (rxFail_eq_failed (by decide) hheld)

theorem beforeDeadline_read_fails (hheld : s.capOpen = true) (h : (readClock s).1 < s.deadline)
    (hread : (readCapture n (readClock s).2).1 = none) :
    beforeDeadline late (withRead n use) s =
      failed .deviceError (readCapture n (readClock s).2).2.env s := by
  rw [beforeDeadline_eq, if_neg h.not_ge, withRead_none (Prod.ext hread rfl)]
  exact (congrArg (rxFail _) (readCapture_keeps ..)).trans (rxFail_eq_failed (by decide) hheld)

theorem beforeDeadline_read_gives {w : List Sample} (h : (readClock s).1 < s.deadline)
    (hread : (readCapture n (readClock s).2).1 = some w) :
    beforeDeadline late (withRead n use) s =
      use w { s with env := (readCapture n (readClock s).2).2.env } := by
  rw [beforeDeadline_eq, if_neg h.not_ge, withRead_some (Prod.ext hread rfl)]
  exact congrArg _ (readCapture_keeps ..)

end TimedRead

/-! ## What was read (R222, R224, R225) -/

section Samples

variable {P : Params} {w : List Sample}

theorem rxHeard_detects (h : detects P 5512 4000 w = true) (s : State) : rxHeard P w s =
    { s with skipLeft := P.startSkip, rxState := if P.startSkip = 0 then .recording else s.rxState } :=
  if_pos h

theorem rxHeard_discards (h : ¬ detects P 5512 4000 w = true) (s : State) : rxHeard P w s = s := if_neg h

/-- A recording that would exceed the capacity (R58). -/
theorem not_recordingFits {n : Nat} (h : ∃ cap, P.recCapacity = some cap ∧ cap < n) :
    ¬ recordingFits P n = true := by
  obtain ⟨cap, hcap, hlt⟩ := h
  exact fun hfits => hlt.not_ge ((recordingFits_iff P n).mp hfits cap hcap)

theorem rxRecorded_full {s : State} (hheld : s.capOpen = true)
    (h : ∃ cap, P.recCapacity = some cap ∧ cap < s.recBuf.length + w.length) (env : Env) :
    rxRecorded P w { s with env := env } = failed .deviceError env s :=
  (if_neg (not_recordingFits h)).trans (rxFail_eq_failed (by decide) hheld)

theorem rxRecorded_fits {s : State}
    (h : ∀ cap, P.recCapacity = some cap → s.recBuf.length + w.length ≤ cap) (env : Env) :
    rxRecorded P w { s with env := env } = { s with
      env := env, recBuf := s.recBuf ++ w
      rxState := if detects P 2205 5000 w then .demodulating else s.rxState } :=
  if_pos ((recordingFits_iff ..).mpr h)

end Samples

/-! ## The step of a running `RECEIVE` by its state (R220) -/

section Receiving

variable {s : State}

theorem step_receiving {x : RxState} (h : receiving x s) :
    step s = .next (receiveStep Config.params s) ∧ s.rxState = x ∧ s.capOpen = true := by
  obtain ⟨hrunning, hx, hheld, hwaits⟩ := h
  exact ⟨step_running hrunning hwaits, hx, hheld⟩

theorem step_listening (h : receiving .awaitStart s) (hskip : s.skipLeft = 0) :
    step s = .next (rxListen Config.params s) := by
  obtain ⟨hstep, hx, -⟩ := step_receiving h
  rw [hstep, receiveStep, hx]
  exact congrArg _ (if_pos hskip)

theorem step_skipping (h : receiving .awaitStart s) (hskip : s.skipLeft ≠ 0) :
    step s = .next (rxSkip s) := by
  obtain ⟨hstep, hx, -⟩ := step_receiving h
  rw [hstep, receiveStep, hx]
  exact congrArg _ (if_neg hskip)

theorem step_recording (h : receiving .recording s) : step s = .next (rxRecord Config.params s) := by
  obtain ⟨hstep, hx, -⟩ := step_receiving h
  rw [hstep, receiveStep, hx]

theorem step_demodulating (h : receiving .demodulating s) :
    step s = .next (rxDemodulate Config.params.num s) := by
  obtain ⟨hstep, hx, -⟩ := step_receiving h
  rw [hstep, receiveStep, hx]

theorem step_validating (h : receiving .validating s) : step s = .next (rxValidate s) := by
  obtain ⟨hstep, hx, -⟩ := step_receiving h
  rw [hstep, receiveStep, hx]

end Receiving

end Sys2Proof.Machine

namespace Sys2Proof.Proofs

open Sys2Proof.Machine Sys2Proof.Rules

/-- Settles O44: the entry reads the clock, then asks for the device. -/
theorem receiveEntry : Obligations.ReceiveEntry :=
  fun _ => ⟨exec_receive_acquired, exec_receive_no_device⟩

/-- Settles O46: the deadline test, the read, and the comparison of the window's power. -/
theorem listeningStep : Obligations.ListeningStep := by
  intro s hrecv hskip
  have ⟨_, hx, hheld, _⟩ := hrecv
  rw [step_listening hrecv hskip, rxListen]
  refine ⟨fun hlate => ?_, fun hearly hread => ?_, fun w hearly hread => ?_⟩
  · rw [beforeDeadline_timeout hheld hlate]
  · rw [beforeDeadline_read_fails hheld hearly hread]
  · rw [beforeDeadline_read_gives hearly hread, ← detects_iff]
    refine ⟨fun hdetects => ?_, fun hquiet => ?_⟩
    · rw [rxHeard_detects hdetects, hx]
    · rw [rxHeard_discards hquiet]

/-- Settles O47: the deadline test, the read, and the count; a read never returns more than is left. -/
theorem skippingStep : Obligations.SkippingStep := by
  intro s hrecv hskip
  have ⟨_, hx, hheld, _⟩ := hrecv
  rw [step_skipping hrecv hskip, rxSkip]
  refine ⟨fun hlate => ?_, fun hearly hread => ?_, fun w hearly hread => ?_⟩
  · rw [beforeDeadline_timeout hheld hlate]
  · rw [beforeDeadline_read_fails hheld hearly hread]
  · have hle : w.length ≤ s.skipLeft := (readCapture_some (Prod.ext hread rfl)).1
    have hdone : s.skipLeft - w.length = 0 ↔ w.length = s.skipLeft := by omega
    rw [beforeDeadline_read_gives hearly hread]
    simp only [rxSkipped, hx, hdone, hle, and_self]

/-- Settles O48: the deadline test, the read, the capacity, and the comparison of the window's power. -/
theorem recordingStep : Obligations.RecordingStep := by
  intro s hrecv
  have ⟨_, hx, hheld, _⟩ := hrecv
  rw [step_recording hrecv, rxRecord]
  refine ⟨fun hlate hempty => ?_, fun hlate hrecorded => ?_, fun hearly hread => ?_,
    fun w hearly hread => ?_⟩
  · rw [beforeDeadline_late hlate, rxRecordLate, if_pos hempty]
    exact congrArg _ (rxFail_eq_failed (by decide) hheld)
  · rw [beforeDeadline_late hlate, rxRecordLate, if_neg hrecorded]
  · rw [beforeDeadline_read_fails hheld hearly hread]
  · rw [beforeDeadline_read_gives hearly hread]
    refine ⟨fun hfull => ?_, fun hfits => ?_⟩
    · rw [rxRecorded_full hheld hfull]
    · rw [rxRecorded_fits hfits, hx]
      simp only [detects_iff]

/-- Settles O49: `DEMODULATE`'s own results, then the bit count. -/
theorem demodulatingStep : Obligations.DemodulatingStep := by
  intro s hrecv
  have ⟨_, _, hheld, _⟩ := hrecv
  rw [step_demodulating hrecv, rxDemodulate_eq]
  refine ⟨_, exec_demodulate s, fun hfew => ?_, fun henough => congrArg _ (if_neg henough.not_gt)⟩
  exact congrArg _ ((if_pos hfew).trans (rxFail_eq_failed (by decide) hheld))

/-- Settles O50: the decoder's outcome is the outcome of the receive. -/
theorem validatingStep : Obligations.ValidatingStep := by
  intro s hrecv
  have ⟨_, _, hheld, _⟩ := hrecv
  rw [step_validating hrecv]
  obtain ⟨c, m, k, r, e, hdecode⟩ := frameDecode_writes s
  by_cases he : e = .none
  · subst he
    rw [rxValidate_succeeds hdecode]
    exact ⟨_, exec_frameDecode_succeeds hdecode, fun _ => rfl, fun hbad => absurd rfl hbad⟩
  · rw [rxValidate_fails hdecode he]
    exact ⟨_, exec_frameDecode_fails hdecode he, fun hok => absurd hok he,
      fun _ => congrArg _ (rxFail_eq_failed he hheld)⟩

end Sys2Proof.Proofs
end

section
/-! PROOFS. How a receive ends: the transitions of its table, what it leaves behind, the zero timeout, and the
bound that the deadline sets (spec 45_receiver_fsm.md R221, R228 to R233). -/

namespace Sys2Proof.Machine

open Sys2Proof.Rules

/-! ## What a step of a running `RECEIVE` results in (R229, R232)

`RxOutcome` says what a step may write; this says, besides, which row of the table it takes. -/

/-- A step from `s` goes on, fails, or succeeds with a message that can be delivered. -/
inductive RxResult (s : State) : State → Prop where
  | continues (t : State) : t.running = s.running → t.err = s.err →
      RxTransition s.err s.rxState t.rxState s.err → RxResult s t
  | fails (e : ErrCode) (u : State) : RxTransition s.err s.rxState .failed e →
      u.rxState = s.rxState → u.capOpen = s.capOpen → u.env.capCloses = s.env.capCloses →
      RxResult s (rxFail e u)
  | succeeds (u : State) : RxTransition s.err s.rxState .success .none →
      u.env.capCloses = s.env.capCloses → 1 ≤ u.msg.length → u.msg.length ≤ 8192 →
      RxResult s (rxSucceed u)

/-- Every row of the table into `FAILED` has an error code (R229, R232). -/
theorem RxTransition.err_ne_none {e e' : ErrCode} {x : RxState} (h : RxTransition e x .failed e') :
    e' ≠ .none := by
  cases h <;> decide

/-- A listening or skipping step, whose use of the samples stays or begins the recording (R222, R224). -/
theorem awaitStep_result {s : State} {n : Nat} {use : List Sample → State → State}
    (hs : s.rxState = .awaitStart)
    (huse : ∀ w u, ∃ k x, use w u = { u with skipLeft := k, rxState := x } ∧
      (x = u.rxState ∨ x = .recording ∧ k = 0)) :
    RxResult s (beforeDeadline (rxFail .timeout) (withRead n use) s) := by
  obtain ⟨env, henv, h | h | ⟨w, h⟩⟩ := beforeDeadline_withRead_cases (rxFail .timeout) n use s <;> rw [h]
  · exact .fails _ _ (hs ▸ .awaitTimeout) rfl rfl henv.closes_eq
  · exact .fails _ _ (hs ▸ .awaitDevice) rfl rfl henv.closes_eq
  · obtain ⟨k, x, hw, hx⟩ := huse w { s with env := env }
    rw [hw]
    refine .continues _ rfl rfl ?_
    obtain rfl | ⟨rfl, -⟩ := hx <;> simp only [hs]
    · exact .awaitStay
    · exact .awaitDone

theorem rxRecord_result (P : Params) {s : State} (hs : s.rxState = .recording) :
    RxResult s (rxRecord P s) := by
  obtain ⟨env, henv, h | h | ⟨w, h⟩⟩ :=
    beforeDeadline_withRead_cases rxRecordLate Config.endWindow (rxRecorded P) s <;> rw [rxRecord, h]
  · unfold rxRecordLate
    split
    · exact .fails _ _ (hs ▸ .recordTimeout) rfl rfl henv.closes_eq
    · exact .continues _ rfl rfl (hs ▸ .recordDone)
  · exact .fails _ _ (hs ▸ .recordDevice) rfl rfl henv.closes_eq
  · unfold rxRecorded
    split
    · refine .continues _ rfl rfl ?_
      dsimp only
      rw [hs]
      split
      · exact .recordDone
      · exact .recordStay
    · exact .fails _ _ (hs ▸ .recordDevice) rfl rfl henv.closes_eq

theorem rxDemodulate_result (K : NumOps) {s : State} (hs : s.rxState = .demodulating) :
    RxResult s (rxDemodulate K s) := by
  rw [rxDemodulate_eq]
  dsimp only
  split
  · exact .fails _ _ (hs ▸ .tooFewBits) rfl rfl rfl
  · exact .continues _ rfl rfl (hs ▸ .demodulated)

/-- The decoder's outcome decides; a message it delivers has a valid length (R124, R127). -/
theorem rxValidate_result {s : State} (hs : s.rxState = .validating) : RxResult s (rxValidate s) := by
  have houtcome := frameDecode_outcome s
  obtain ⟨c, m, k, r, e, hdecode⟩ := frameDecode_writes s
  rw [hdecode] at houtcome
  obtain ⟨rfl, hmin, hmax⟩ | ⟨rfl | rfl | rfl, -⟩ := houtcome
  · rw [rxValidate_succeeds hdecode]
    exact .succeeds _ (hs ▸ .decoded) rfl hmin hmax
  all_goals rw [rxValidate_fails hdecode (by decide)]
  · exact .fails _ _ (hs ▸ .decodeBits) rfl rfl rfl
  · exact .fails _ _ (hs ▸ .decodeLength) rfl rfl rfl
  · exact .fails _ _ (hs ▸ .decodeCrc) rfl rfl rfl

theorem receiveStep_result (P : Params) {s : State} (hs : s.rxState.active = true) :
    RxResult s (receiveStep P s) := by
  unfold receiveStep
  split
  next h =>
    split
    · exact awaitStep_result h (rxHeard_keeps P)
    · exact awaitStep_result h rxSkipped_keeps
  next h => exact rxRecord_result P h
  next h => exact rxDemodulate_result P.num h
  next h => exact rxValidate_result h
  all_goals next h => simp [h, RxState.active] at hs

section Running

variable {s t : State}

/-- A step of a running `RECEIVE` that the host lets go on. -/
theorem State.Inv.step_result (hinv : s.Inv) (hrunning : s.running = some .receive)
    (hwaits : s.hostWaits = true) (hstep : step s = .next t) : RxResult s t := by
  rw [step_running hrunning hwaits] at hstep
  obtain rfl := Host.Outcome.next.inj hstep
  exact receiveStep_result Config.params (hinv.active_of_running hrunning)

/-- A step that ends the running operation is one of the operation's own, not the host's. -/
theorem hostWaits_of_step_ends {r : Running} (hrunning : s.running = some r) (hstep : step s = .next t)
    (hended : t.running = none) : s.hostWaits = true := by
  obtain ⟨_, -, hwaits, -⟩ | ⟨_, _, hbusy, -, -, rfl⟩ | ⟨_, hidle, -⟩ | ⟨_, _, hidle, -⟩ | ⟨hidle, -⟩ :=
    step_cases hstep
  · exact hwaits
  · exact absurd hended hbusy
  all_goals simp [hrunning] at hidle

/-- A `RECEIVE` whose entry has acquired the device: where it stands, and no sample has been read (R221). -/
theorem exec_receive_runs (hexec : exec .receive s = .next t) (hrunning : t.running = some .receive) :
    t = startOp .receive { rxEntered t.env s with capOpen := true, rxState := .awaitStart } ∧
      t.env.capPos = s.env.capPos ∧ t.env.reads = s.env.reads := by
  cases hdevice : (openCapture (readClock s).2).1 with
  | true =>
    rw [exec_receive_acquired hdevice] at hexec
    obtain rfl := Host.Outcome.next.inj hexec
    exact ⟨rfl, rfl, rfl⟩
  | false =>
    rw [exec_receive_no_device hdevice] at hexec
    obtain rfl := Host.Outcome.next.inj hexec
    simp at hrunning

end Running

/-! ## Ending within a number of steps (R233) -/

theorem run_succ_of_step {M : Host.Core} {s t : M.State} {k : Nat} (h : M.step s = .next t) :
    M.run (k + 1) s = M.run k t := by
  simp only [Host.Core.run, h]

/-- Within `n` steps from `s` the operation has ended, in `SUCCESS` or in `FAILED`. -/
def EndsWithin (n : Nat) (s : State) : Prop :=
  ∃ (k : Nat) (t : State), k ≤ n ∧ core.run k s = .next t ∧ t.running = none ∧
    (t.rxState = .success ∨ t.rxState = .failed)

namespace EndsWithin

variable {s t : State} {n : Nat}

theorem of_ended (hended : t.running = none) (hx : t.rxState = .success ∨ t.rxState = .failed) :
    EndsWithin n t := ⟨0, t, n.zero_le, rfl, hended, hx⟩

theorem of_step (hstep : step s = .next t) (h : EndsWithin n t) : EndsWithin (n + 1) s := by
  obtain ⟨k, u, hk, hrun, hended⟩ := h
  exact ⟨k + 1, u, Nat.succ_le_succ hk, (run_succ_of_step hstep).trans hrun, hended⟩

theorem of_step_failed {e : ErrCode} {env : Env} (hstep : step s = .next (failed e env t)) :
    EndsWithin (n + 1) s := of_step hstep (of_ended rfl (.inr rfl))

/-- Validating decides (R227). -/
theorem validating (h : receiving .validating s) : EndsWithin (n + 1) s := by
  obtain ⟨t, -, hok, hbad⟩ := Proofs.validatingStep s h
  by_cases herr : t.err = .none
  · exact of_step (hok herr) (of_ended rfl (.inl rfl))
  · exact of_step_failed (hbad herr)

/-- Demodulating fails or goes on to validating (R226). -/
theorem demodulating (h : receiving .demodulating s) : EndsWithin (n + 2) s := by
  obtain ⟨t, -, hfew, henough⟩ := Proofs.demodulatingStep s h
  obtain ⟨hrunning, -, hheld, hwaits⟩ := h
  obtain hbits | hbits := Nat.lt_or_ge t.bits.length 32
  · exact of_step_failed (hfew hbits)
  · exact of_step (henough hbits) (validating ⟨hrunning, rfl, hheld, hwaits⟩)

/-- Recording past the deadline fails or goes on to demodulating (R225). -/
theorem recording_late (h : receiving .recording s) (hlate : s.deadline ≤ (readClock s).1) :
    EndsWithin (n + 3) s := by
  obtain ⟨hempty, hrecorded, -⟩ := Proofs.recordingStep s h
  obtain ⟨hrunning, -, hheld, hwaits⟩ := h
  by_cases hlength : s.recBuf.length = 0
  · exact of_step_failed (hempty hlate hlength)
  · exact of_step (hrecorded hlate hlength) (demodulating ⟨hrunning, rfl, hheld, hwaits⟩)

end EndsWithin

/-- Past the deadline, listening and skipping alike time out without a read (R222, R224). -/
theorem step_awaitStart_late {s : State} (h : receiving .awaitStart s)
    (hlate : s.deadline ≤ (readClock s).1) :
    step s = .next (failed .timeout (readClock s).2.env s) := by
  by_cases hskip : s.skipLeft = 0
  · exact (Proofs.listeningStep s h hskip).1 hlate
  · exact (Proofs.skippingStep s h hskip).1 hlate

end Sys2Proof.Machine

namespace Sys2Proof.Proofs

open Sys2Proof.Machine Sys2Proof.Rules

/-- Settles O52: each result of a step comes with its row of the table. -/
theorem receiveTransitionsOnlyAsListed : Obligations.ReceiveTransitionsOnlyAsListed := by
  intro s t hinv hrunning hwaits hstep
  cases hinv.step_result hrunning hwaits hstep with
  | continues _ _ herr hrow => rwa [herr]
  | fails e u hrow => exact hrow
  | succeeds u hrow => exact hrow

/-- Settles O54: a step that ends the receive has failed or succeeded, and both exits release the device. -/
theorem receiveEndsWithMessageOrNothing : Obligations.ReceiveEndsWithMessageOrNothing := by
  intro s t hinv hrunning hstep hended
  have hwaits := hostWaits_of_step_ends hrunning hstep hended
  cases hinv.step_result hrunning hwaits hstep with
  | continues _ hsame => simp [hsame, hrunning] at hended
  | fails e u hrow hx hcap hcloses =>
    have herr := hrow.err_ne_none
    rw [rxFail_eq_failed herr (hcap.trans (hinv.receive_runs.mp hrunning))]
    exact ⟨rfl, rfl, congrArg (· + 1) hcloses, .inr ⟨rfl, rfl, herr, rfl, hx⟩⟩
  | succeeds u hrow hcloses hmin hmax =>
    exact ⟨rfl, rfl, congrArg (· + 1) hcloses, .inl ⟨rfl, rfl, rfl, hmin, hmax⟩⟩

/-- Settles O51: with no timeout the deadline is the time of the entry, which the clock cannot be before. -/
theorem zeroTimeoutFailsWithoutARead : Obligations.ZeroTimeoutFailsWithoutARead := by
  intro s t hzero hwaits hexec hrunning
  obtain ⟨ht, hpos, hreads⟩ := exec_receive_runs hexec hrunning
  have hrecv : receiving .awaitStart t := by
    rw [ht]
    exact ⟨rfl, rfl, rfl, hwaits⟩
  have hdeadline : t.deadline = t.env.now := by
    rw [ht]
    simp [rxEntered, hzero]
  have hlate := hdeadline.trans_le (readClock_spec t).1
  exact ⟨_, step_awaitStart_late hrecv hlate, rfl, rfl, rfl, hpos, hreads⟩

/-- Settles O55: waiting ends in one step, recording in one or by way of demodulating and validating. -/
theorem deadlineEndsTheReceive : Obligations.DeadlineEndsTheReceive := by
  intro s hinv hhost hx hlate
  have hheld : s.capOpen = true := by
    rw [hinv.capture_held]
    obtain hx | hx := hx <;> rw [hx] <;> rfl
  have hrunning := hinv.receive_runs.mpr hheld
  have hwaits : s.hostWaits = true := by rw [State.hostWaits, hhost]
  obtain hx | hx := hx
  · exact EndsWithin.of_step_failed (n := 2) (step_awaitStart_late ⟨hrunning, hx, hheld, hwaits⟩ hlate)
  · exact EndsWithin.recording_late (n := 0) ⟨hrunning, hx, hheld, hwaits⟩ hlate

end Sys2Proof.Proofs
end

section
/-! PROOFS. The laws of `NUM` that the numeric rules rest on (spec 46_numerics.md R254). -/

namespace Sys2Proof.NumVal

/-- `trunc` gives back the integer an exact `num` was made of (R254, R256). -/
theorem trunc_num (K : NumOps) {a : Int} (ha : a.natAbs < 2 ^ 31) : (K.num a).trunc = a := by
  rw [K.num_small ha, trunc_int]

end Sys2Proof.NumVal

namespace Sys2Proof.Proofs

/-- Settles O25: the laws hold for every choice of the open operations, so for the implementation's. -/
theorem numericLawsHold : Obligations.NumericLawsHold := by
  unfold Obligations.NumericLawsHold
  intro K
  rw [K.num_zero]
  refine ⟨?exact, ?truncates, ?neutral, K.sine_zero, NumVal.gt_self, ?transitive⟩
  case exact => exact fun a b ha hb => ⟨NumVal.gt_num K ha hb, K.num_eq_iff ha hb⟩
  case truncates => exact fun a ha => NumVal.trunc_num K ha
  case neutral => exact fun x => ⟨K.plus_zero x, K.zero_plus x, K.times_zero x⟩
  case transitive => exact fun x y z hxy hyz => NumVal.gt_trans hxy hyz

end Sys2Proof.Proofs
end

section
/-! PROOFS. The error outcomes: which of them each atomic operation can end in, what a failed check leaves, and
where a passed deadline is an error (spec 60_exceptions.md R260 to R268, 20_memory.md R56). -/

namespace Sys2Proof.Machine

open Sys2Proof.Rules

/-! ## The outcomes of the atomic operations (R260, R266, R268) -/

/-- The operations with an operand check (R266). -/
def operandChecked : List Instr :=
  [.frameEncode, .encodeMessage, .tone, .goertzelPower, .toneDetect, .symEnergy, .bitExtract]

/-- `e` is one of the outcomes of R260's list in which the atomic operation `i` can end. -/
def ListedOutcome (i : Instr) (e : ErrCode) : Prop :=
  e = .none ∨ (e = .operandRange ∧ i ∈ operandChecked) ∨
    (i = .frameDecode ∧ e ∈ [ErrCode.insufficientBits, .invalidLength, .crcMismatch])

/-- A body that makes its operand check first ends without error or in `OperandRange` (R266). -/
theorem operandCheck_outcome (ok : Bool) (t s : State) :
    let r := if ok then (t, ErrCode.none) else (s, .operandRange)
    r.2 = .none ∨ r.2 = .operandRange := by
  cases ok
  · exact .inr rfl
  · exact .inl rfl

theorem ListedOutcome.of_operandCheck {i : Instr} {e : ErrCode} (hi : i ∈ operandChecked)
    (h : e = .none ∨ e = .operandRange) : ListedOutcome i e :=
  h.imp_right fun hrange => .inl ⟨hrange, hi⟩

/-- Building the burst raises nothing, so the outcome is that of the encoding (R149). -/
theorem encodeBurst_outcome (K : NumOps) (s : State) : (encodeBurst K s).2 = (frameEncode s).2 := by
  unfold encodeBurst
  split <;> next hencode => rw [hencode]

theorem frameDecode_listed (s : State) : ListedOutcome .frameDecode (frameDecode s).2 := by
  obtain ⟨hok, -⟩ | ⟨hbad, -⟩ := frameDecode_outcome s
  · exact .inl hok
  · exact .inr (.inr ⟨rfl, by simpa using hbad⟩)

/-- An operation of one step ends, in an outcome of its list (R56, R260, R268). -/
theorem exec_atomic_outcome {i : Instr} (hi : atomic i) (s : State) :
    ∃ e u, exec i s = .next (endOp e u) ∧ ListedOutcome i e := by
  obtain ⟨htransmit, hreceive⟩ := hi
  cases i
  case transmit => exact absurd rfl htransmit
  case receive => exact absurd rfl hreceive
  case crcInit | crcByte | crcRead | crcBlock | modReset | modBits | buildFrame | offsetSearch =>
    exact ⟨_, _, rfl, .inl rfl⟩
  case demodulate => exact ⟨.none, _, exec_demodulate s, .inl rfl⟩
  case frameDecode => exact ⟨_, _, rfl, frameDecode_listed s⟩
  case encodeMessage =>
    refine ⟨_, _, rfl, .of_operandCheck (by decide) ?_⟩
    rw [encodeBurst_outcome]
    exact operandCheck_outcome ..
  case frameEncode | tone | goertzelPower | toneDetect | symEnergy | bitExtract =>
    exact ⟨_, _, rfl, .of_operandCheck (by decide) (operandCheck_outcome ..)⟩

end Sys2Proof.Machine

namespace Sys2Proof.Proofs

open Sys2Proof.Machine Sys2Proof.Rules

/-- Settles O13: each check that fails leaves the state its operation started from. -/
theorem operandRangeChangesOnlyStatus : Obligations.OperandRangeChangesOnlyStatus := by
  refine fun s => ⟨fun c => step_reserved, fun hlong => ?message, exec_tone_refused, fun hbad => ?window,
    exec_symEnergy_refused, exec_bitExtract_refused⟩
  case message => exact ⟨exec_frameEncode_refused hlong, exec_encodeMessage_refused hlong⟩
  case window =>
    rw [← not_goertzelOperandsOk_iff] at hbad
    exact ⟨exec_goertzelPower_refused hbad, exec_toneDetect_refused hbad⟩

/-- Settles O14: the operation is over in the state it leaves, and its outcome is on its list. -/
theorem atomicOperationsEndInAListedOutcome : Obligations.AtomicOperationsEndInAListedOutcome := by
  intro i s hi
  obtain ⟨e, u, hexec, hlisted⟩ := exec_atomic_outcome hi s
  exact ⟨_, hexec, rfl, rfl, decide_eq_true_iff, hlisted⟩

/-- Settles O45: waiting times out without a read; recording times out only while nothing is recorded. -/
theorem deadlineRaisesTimeout : Obligations.DeadlineRaisesTimeout := by
  refine fun s hlate => ⟨fun hwaiting => step_awaitStart_late hwaiting hlate, fun hrecording hempty => ?_,
    fun hrecording hrecorded => ?_⟩
  · obtain ⟨htimesOut, -⟩ := recordingStep s hrecording
    exact htimesOut hlate (List.length_eq_zero_iff.mpr hempty)
  · obtain ⟨-, hgoesOn, -⟩ := recordingStep s hrecording
    exact hgoesOn hlate (mt List.length_eq_zero_iff.mp hrecorded)

end Sys2Proof.Proofs
end

section
/-! PROOFS. `Reset`, and that nothing else can stop the block (spec 70_reset_and_hazards.md R290,
93_implementation_defined.md U12). -/

namespace Sys2Proof.Machine

/-- No operation's meaning ends in a fault or a refusal: an atomic one ends with an outcome (R56, R268), and
`TRANSMIT` and `RECEIVE` start (R150, R221). -/
theorem exec_goes_on (i : Instr) (s : State) : ∃ t, exec i s = .next t := by
  by_cases htransmit : i = .transmit
  · exact ⟨startTransmit Config.params s, by rw [htransmit]; rfl⟩
  by_cases hreceive : i = .receive
  · exact ⟨rxEnter s, by rw [hreceive]; rfl⟩
  obtain ⟨e, u, hexec, -⟩ := exec_atomic_outcome ⟨htransmit, hreceive⟩ s
  exact ⟨endOp e u, hexec⟩

theorem startCommand_goes_on (c : Byte) (s : State) : ∃ t, startCommand c s = .next t := by
  unfold startCommand
  split
  next i _ => exact exec_goes_on i s
  next => exact ⟨illegalCommand s, rfl⟩

/-- A host that does not wait for the running operation has an impatient action to take (R301). -/
theorem exists_impatient_of_not_hostWaits {s : State} (h : s.hostWaits ≠ true) :
    ∃ a rest, s.host = a :: rest ∧ a.patient = false := by
  cases hhost : s.host with
  | nil => simp [State.hostWaits, hhost] at h
  | cons a rest => exact ⟨a, rest, rfl, by simpa [State.hostWaits, hhost] using h⟩

/-- With no operation in progress a step goes on: a command starts, the host acts, or nothing happens. -/
theorem step_idle_goes_on {s : State} (hidle : s.running = none) : ∃ t, step s = .next t := by
  cases hcmd : s.cmd with
  | some c =>
    rw [step_command hidle hcmd]
    exact startCommand_goes_on c _
  | none =>
    cases hhost : s.host with
    | cons a rest => exact ⟨_, step_host hidle hcmd hhost⟩
    | nil => exact ⟨s, by simp only [step, turn, hidle, hcmd, hhost, goOn_eq]⟩

/-- A `Reset` while an operation runs is refused (R290, U12). -/
theorem step_busy_reset {s : State} {a : HostAct} {rest : List HostAct} (hbusy : s.busy = true)
    (hhost : s.host = a :: rest) (himpatient : a.patient = false) (hreset : a.op = .reset) :
    step s = .refused .resetWhileRunning := by
  rw [step_hostBusy (Option.isSome_iff_ne_none.mp hbusy) hhost himpatient, hreset]
  rfl

end Sys2Proof.Machine

namespace Sys2Proof.Proofs

open Sys2Proof.Machine

/-- Settles O10: only the host's turn while an operation runs can stop, and there only `Reset` does. -/
theorem onlyBusyResetStops : Obligations.OnlyBusyResetStops := by
  intro s
  obtain hidle | ⟨r, hrunning⟩ := Option.eq_none_or_eq_some s.running
  · exact .inl (step_idle_goes_on hidle)
  by_cases hwaits : s.hostWaits = true
  · exact .inl ⟨_, step_running hrunning hwaits⟩
  obtain ⟨a, rest, hhost, himpatient⟩ := exists_impatient_of_not_hostWaits hwaits
  have hbusy : s.busy = true := Option.isSome_of_eq_some hrunning
  by_cases hreset : a.op = .reset
  · exact .inr ⟨step_busy_reset hbusy hhost himpatient hreset, hbusy, a, rest, hhost, hreset, himpatient⟩
  · exact .inl ⟨_, hostWritesWhileBusyAreRefused s a rest hbusy hhost himpatient hreset⟩

/-- Settles O9: an idle host's `Reset` is `resetBlock`; a busy one is refused. -/
theorem resetEventRestoresResetState : Obligations.ResetEventRestoresResetState := by
  refine fun s a rest hhost hreset => ⟨fun hidle hcmd => ?_, fun hbusy himpatient => ?_⟩
  · rw [step_host hidle hcmd hhost, hreset]
    rfl
  · exact step_busy_reset hbusy hhost himpatient hreset

end Sys2Proof.Proofs
end
